-- ==== Sys2Proof/Word.lean ====
section
/-! DEFINITION. The widths the spec fixes (00_scope.md R7, R8) and the register index (30_encoding.md R62). -/

namespace Sys2Proof

/-- A 64-bit word: a TimeValue register, ST, DIN or DOUT (R7, R20). -/
abbrev Word := BitVec 64

/-- One byte of a timestamp image (R42). -/
abbrev Byte := BitVec 8

/-- A command word CMD (R60). -/
abbrev CmdWord := BitVec 16

/-- A 5-byte timestamp image, entry k being BIN[k] or BOUT[k] (R42). -/
abbrev Image := Vector Byte 5

/-- A register index: i names register xi (R62). -/
abbrev RegIdx := Fin 8

end Sys2Proof
end

