-- ==== Sys2Proof/Config.lean ====
section
/-! DEFINITION. The parameters of 00_scope.md R3 and R7, and the reset values the spec leaves open. -/

namespace Sys2Proof.Config

/-- The block's identifier (R3, decision D1). -/
def blockId : String := "DW1000Generic-TVU"

/-- The block's version (R3, decision D1). -/
def blockVersion : String := "v7-spec1"

/-- MOD, the wrap modulus 2^40 (R7). -/
def modulus : Int := 1099511627776

/-- TS_MAX = 2^40 - 1 (R7). -/
def tsMax : Int := 1099511627775

/-- The least signed 64-bit value, -2^63 (R9, R20). -/
def int64Min : Int := -9223372036854775808

/-- The greatest signed 64-bit value, 2^63 - 1 (R9, R20). -/
def int64Max : Int := 9223372036854775807

/-- What x0 to x7 hold after reset. DESIGN CHOICE, unsafe (log 1): R32 says "unspecified". -/
def resetReg : Word := 0

/-- What DOUT holds after reset. DESIGN CHOICE, unsafe (log 3): R32 says "unspecified". -/
def resetDout : Word := 0

/-- What each byte of BOUT holds after reset. DESIGN CHOICE, unsafe (log 3): R32 says "unspecified". -/
def resetBoutByte : Byte := 0

end Sys2Proof.Config
end

