-- ==== Sys2Proof/Syntax.lean ====
section
/-! DEFINITION. The commands (one constructor per row of spec/opcode_table.json), their operand classes
(30_encoding.md R63, R64), the issue transaction (20_memory.md R41), and a line of assembler source (R68, R69). -/

namespace Sys2Proof

/-- A command. Its register fields are 3-bit indexes (R61, R62), so every value of the type is encodable.
The port operands DIN and BIN are not part of the word and so not part of the command. -/
inductive Instr where
  | nop
  | ldi (rd : RegIdx)
  | rdx (rs1 : RegIdx)
  | ld5 (rd : RegIdx)
  | st5 (rs1 : RegIdx)
  | add (rd rs1 rs2 : RegIdx)
  | sub (rd rs1 rs2 : RegIdx)
  | mul (rd rs1 rs2 : RegIdx)
  | div (rd rs1 rs2 : RegIdx)
  | wrap (rd rs1 : RegIdx)
  | addw (rd rs1 rs2 : RegIdx)
  | subw (rd rs1 rs2 : RegIdx)
  | rdst
  | clrst
deriving DecidableEq, Repr

/-- The fourteen mnemonics of the opcode map (R64). -/
inductive Mnemonic where
  | nop | ldi | rdx | ld5 | st5 | add | sub | mul | div | wrap | addw | subw | rdst | clrst
deriving DecidableEq, Repr

/-- The operand classes of R63: which of rd, rs1, rs2 a command uses. -/
inductive OperandClass where
  | n | d | s | ds | dss
deriving DecidableEq, Repr

/-- What one issue transaction carries (R41). -/
structure Transaction where
  cmd : CmdWord
  din : Word
  bin : Image
deriving DecidableEq, Repr

/-- What the host can present at the port between two commands. -/
inductive HostEvent where
  /-- One issue transaction (R41). -/
  | issue (t : Transaction)
  /-- The host asserts reset (R180). -/
  | reset
  /-- Two agents issue at the same time (R50, I12): not admitted. -/
  | contend (t u : Transaction)
deriving DecidableEq, Repr

/-- One line of assembler source (R68, R69). Port operands stand as the integers the programmer wrote,
so a line can be ill-formed (WellFormed.lean). -/
inductive Source where
  /-- A command without port operand. -/
  | plain (i : Instr)
  /-- `ldi xd, V`. -/
  | ldi (rd : RegIdx) (v : Int)
  /-- `ld5 xd, [b0, b1, b2, b3, b4]`. -/
  | ld5 (rd : RegIdx) (image : List Int)
  /-- `.word 0xHHHH`, a raw and possibly illegal command word. -/
  | word (w : Int)
  /-- `li xd, V`. -/
  | li (rd : RegIdx) (v : Int)
  /-- `clr xd`. -/
  | clr (rd : RegIdx)
  /-- `ldts xd, T`. -/
  | ldts (rd : RegIdx) (t : Int)
  /-- `interval xd, xlater, xearlier`. -/
  | interval (rd later earlier : RegIdx)
  /-- `advance xd, xts, xdelta`. -/
  | advance (rd ts delta : RegIdx)
deriving DecidableEq, Repr

end Sys2Proof
end

