-- ==== Sys2Proof/Machine/State.lean ====
section
/-! DEFINITION. The state of the TVU (10_state.md), the state after reset (R32, R180), and the reasons to stop.
The TVU has no memory, program counter, mode or interrupt state (R22, R31; 60_exceptions.md R159, R160). -/

namespace Sys2Proof.Machine

/-- The machine and what the host will present to it. Plain data. -/
structure State where
  /-- x0 to x7, 64-bit two's complement patterns (R20). -/
  x : Vector Word 8
  /-- The written marks W[0..7] (R24), which the spec gives its model and not the hardware. -/
  written : Vector Bool 8
  /-- The status register ST: OV bit 0, DZ bit 1, IL bit 2, bits 63:3 zero (R7, R25). -/
  st : Word
  /-- The output register DOUT (R28). -/
  dout : Word
  /-- The output register BOUT[0..4] (R28). -/
  bout : Image
  /-- The model's own: an RDX or RDST has completed since reset (R182; log 4). -/
  doutDriven : Bool
  /-- The model's own: an ST5 has completed since reset (R182; log 4). -/
  boutDriven : Bool
  /-- The model's own: the first register read while its mark was 0, where the spec's model ends in
  UnwrittenRead(i) (R155; log 2). Never cleared. -/
  unwrittenRead : Option RegIdx
  /-- DIN as sampled with the command being executed (R41; no state of the TVU, R29; log 6). -/
  din : Word
  /-- BIN as sampled with the command being executed (R41; no state of the TVU, R29; log 6). -/
  bin : Image
  /-- What the host will present, oldest first (R41, R49; log 5). -/
  pending : List HostEvent
deriving DecidableEq, Repr

/-- The machine right after reset (R32, R180): every mark and ST are 0. The values of x0 to x7, DOUT and BOUT are
the model's choice (logs 1 and 3), as are the fields that are the model's own (logs 2, 4, 5, 6). -/
def State.reset : State where
  x := Vector.replicate 8 Config.resetReg
  written := Vector.replicate 8 false
  st := 0
  dout := Config.resetDout
  bout := Vector.replicate 5 Config.resetBoutByte
  doutDriven := false
  boutDriven := false
  unwrittenRead := none
  din := 0
  bin := Vector.replicate 5 0
  pending := []

/-- Why the model stops. The hardware itself never does: it has no traps (R150). -/
inductive Fault where
  /-- Raised by `step` when two agents issue at the same time. R50: "A model gives such an issue no step";
  I12: `stuck`. Safe: no claim about such a system can be proved (log 8). -/
  | concurrentIssue
deriving DecidableEq, Repr

/-- Why an instruction has no meaning. Nothing raises it: every command is modelled and an illegal word is a
command that sets ST.IL (R66). -/
inductive Refusal where
  /-- An instruction rejected by name in Dispatch.lean; no arm does so. Safe. -/
  | notModelled (mnemonic : String)
deriving DecidableEq, Repr

/-- The errors that end a command by setting one ST bit (R150, R151). Their arguments are recorded nowhere (R151). -/
inductive HwError where
  /-- `DivideByZero(rd)` (R86, R152). -/
  | divideByZero (rd : RegIdx)
  /-- `IllegalCommand(w)` (R66, R153). -/
  | illegalCommand (w : CmdWord)
deriving DecidableEq, Repr

/-- The defined bits of ST (R25). -/
inductive StBit where
  | ov | dz | il
deriving DecidableEq, Repr

/-- The outcome of a command or a step. -/
abbrev Result := Host.Outcome State Fault Refusal

end Sys2Proof.Machine
end

