-- ==== Sys2Proof/Machine/Flags.lean ====
section
/-! DEFINITION. The bits of ST (10_state.md R25) and the conditions that set them (40_arithmetic.md R81;
60_exceptions.md R151). -/

namespace Sys2Proof.Machine

/-- The place of a status bit: OV 0, DZ 1, IL 2 (R25, R151). -/
def StBit.pos : StBit → Nat
  | .ov => 0
  | .dz => 1
  | .il => 2

/-- ST with that bit alone. -/
def StBit.mask (b : StBit) : Word := BitVec.ofNat 64 (2 ^ b.pos)

/-- The exact result e "lies outside [-2^63, 2^63 - 1]" (R81). -/
def overflows (e : Int) : Bool := decide (e < Config.int64Min) || decide (Config.int64Max < e)

/-- The ST bit of an error (R151). -/
def HwError.bit : HwError → StBit
  | .divideByZero _ => .dz
  | .illegalCommand _ => .il

end Sys2Proof.Machine
end

