-- ==== Sys2Proof/WellFormed.lean ====
section
/-! DEFINITION. Which assembler lines an assembler accepts (30_encoding.md R68, R69).
A value of `Instr` needs no check: its register fields are 3-bit indexes by type, and a command has no other
field (R61, R62). -/

namespace Sys2Proof

/-- `lo <= v < hi`. -/
def inRange (lo v hi : Int) : Bool := decide (lo ≤ v) && decide (v < hi)

/-- "An assembler rejects an LDI value outside [-2^63, 2^64) and an LD5 byte outside [0, 255]" (R68);
an image has five bytes, a raw word 16 bits, and T of `ldts` is "an integer in [0, 2^40)" (R69).
LDI and LD5 are written with their port operand, so they are no `plain` line. -/
def Source.wf : Source → Bool
  | .plain (.ldi _) => false
  | .plain (.ld5 _) => false
  | .plain _ => true
  | .ldi _ v => inRange Config.int64Min v 18446744073709551616
  | .ld5 _ image => image.length == 5 && image.all (fun b => inRange 0 b 256)
  | .word w => inRange 0 w 65536
  | .li _ v => inRange Config.int64Min v 18446744073709551616
  | .clr _ => true
  | .ldts _ t => inRange 0 t Config.modulus
  | .interval _ _ _ => true
  | .advance _ _ _ => true

end Sys2Proof
end

