-- ==== Sys2Proof/Decode.lean ====
section
/-! DEFINITION. Decoding a command word, total on all 2^16 words and rejecting by name (30_encoding.md R61 to R67),
and after it the encoder, written from R61 and R64. -/

namespace Sys2Proof

/-- Why a word decodes to Illegal(w), in the order of R65's checks (R66). -/
inductive Illegal where
  /-- op is 0xE or 0xF (R67). -/
  | reservedOpcode
  /-- z is not zero. -/
  | nonzeroZ
  /-- rd is not zero and the class does not use it. -/
  | nonzeroRd
  /-- rs1 is not zero and the class does not use it. -/
  | nonzeroRs1
  /-- rs2 is not zero and the class does not use it. -/
  | nonzeroRs2
deriving DecidableEq, Repr

/-! ## Fields (R61) -/

/-- op = w[15:12]. -/
def opField (w : CmdWord) : BitVec 4 := w.extractLsb' 12 4

/-- rd = w[11:9]. -/
def rdField (w : CmdWord) : BitVec 3 := w.extractLsb' 9 3

/-- rs1 = w[8:6]. -/
def rs1Field (w : CmdWord) : BitVec 3 := w.extractLsb' 6 3

/-- rs2 = w[5:3]. -/
def rs2Field (w : CmdWord) : BitVec 3 := w.extractLsb' 3 3

/-- z = w[2:0]. -/
def zField (w : CmdWord) : BitVec 3 := w.extractLsb' 0 3

/-- "A register field is a 3-bit unsigned index i" (R62). -/
def regOfField (f : BitVec 3) : RegIdx := ⟨f.toNat, f.isLt⟩

/-! ## The opcode map (R64) -/

/-- The mnemonic of an opcode; none for the reserved 0xE and 0xF (R64, R67). -/
def mnemonicOf (op : BitVec 4) : Option Mnemonic :=
  match op.toNat with
  | 0 => some .nop
  | 1 => some .ldi
  | 2 => some .rdx
  | 3 => some .ld5
  | 4 => some .st5
  | 5 => some .add
  | 6 => some .sub
  | 7 => some .mul
  | 8 => some .div
  | 9 => some .wrap
  | 10 => some .addw
  | 11 => some .subw
  | 12 => some .rdst
  | 13 => some .clrst
  | _ => none

/-- The operand class of a mnemonic (R64). -/
def Mnemonic.operandClass : Mnemonic → OperandClass
  | .nop => .n
  | .ldi => .d
  | .rdx => .s
  | .ld5 => .d
  | .st5 => .s
  | .add => .dss
  | .sub => .dss
  | .mul => .dss
  | .div => .dss
  | .wrap => .ds
  | .addw => .dss
  | .subw => .dss
  | .rdst => .n
  | .clrst => .n

/-- Classes D, DS and DSS use rd (R63). -/
def OperandClass.usesRd : OperandClass → Bool
  | .n => false
  | .d => true
  | .s => false
  | .ds => true
  | .dss => true

/-- Classes S, DS and DSS use rs1 (R63). -/
def OperandClass.usesRs1 : OperandClass → Bool
  | .n => false
  | .d => false
  | .s => true
  | .ds => true
  | .dss => true

/-- Class DSS uses rs2 (R63). -/
def OperandClass.usesRs2 : OperandClass → Bool
  | .n => false
  | .d => false
  | .s => false
  | .ds => false
  | .dss => true

/-- `Command(mnemonic, rd, rs1, rs2)` of R65; a command keeps the fields its class uses. -/
def command (m : Mnemonic) (rd rs1 rs2 : RegIdx) : Instr :=
  match m with
  | .nop => .nop
  | .ldi => .ldi rd
  | .rdx => .rdx rs1
  | .ld5 => .ld5 rd
  | .st5 => .st5 rs1
  | .add => .add rd rs1 rs2
  | .sub => .sub rd rs1 rs2
  | .mul => .mul rd rs1 rs2
  | .div => .div rd rs1 rs2
  | .wrap => .wrap rd rs1
  | .addw => .addw rd rs1 rs2
  | .subw => .subw rd rs1 rs2
  | .rdst => .rdst
  | .clrst => .clrst

/-- R65, check by check. -/
def decode (w : CmdWord) : Except Illegal Instr :=
  match mnemonicOf (opField w) with
  | none => .error .reservedOpcode
  | some m =>
    if zField w ≠ 0 then .error .nonzeroZ
    else if rdField w ≠ 0 ∧ m.operandClass.usesRd = false then .error .nonzeroRd
    else if rs1Field w ≠ 0 ∧ m.operandClass.usesRs1 = false then .error .nonzeroRs1
    else if rs2Field w ≠ 0 ∧ m.operandClass.usesRs2 = false then .error .nonzeroRs2
    else .ok (command m (regOfField (rdField w)) (regOfField (rs1Field w)) (regOfField (rs2Field w)))

/-- The decoder on an instruction's bits, numbered as spec/opcode_table.json numbers them: bit 0 is bit 0 of CMD,
and a bit at or above nbits is 0. A command is one 16-bit word (R60), so more bits are no command (log 11). -/
def decodeTableWord (nbits w : Nat) : Option Instr :=
  if nbits ≤ 16 then (decode (BitVec.ofNat 16 (w % 2 ^ nbits))).toOption else none

/-! ## The opcode map as match and mask (R64) -/

/-- A row of R64's table; `pattern` is its "match" column. -/
structure TableRow where
  mnemonic : Mnemonic
  pattern : CmdWord
  mask : CmdWord
deriving DecidableEq, Repr

/-- The fourteen rows of R64 that carry a command. -/
def opcodeTable : List TableRow := [
  ⟨.nop, 0x0000, 0xFFFF⟩,
  ⟨.ldi, 0x1000, 0xF1FF⟩,
  ⟨.rdx, 0x2000, 0xFE3F⟩,
  ⟨.ld5, 0x3000, 0xF1FF⟩,
  ⟨.st5, 0x4000, 0xFE3F⟩,
  ⟨.add, 0x5000, 0xF007⟩,
  ⟨.sub, 0x6000, 0xF007⟩,
  ⟨.mul, 0x7000, 0xF007⟩,
  ⟨.div, 0x8000, 0xF007⟩,
  ⟨.wrap, 0x9000, 0xF03F⟩,
  ⟨.addw, 0xA000, 0xF007⟩,
  ⟨.subw, 0xB000, 0xF007⟩,
  ⟨.rdst, 0xC000, 0xFFFF⟩,
  ⟨.clrst, 0xD000, 0xFFFF⟩]

/-- "A word w selects the row when (w AND mask) = match" (R64). -/
def TableRow.selects (r : TableRow) (w : CmdWord) : Bool := w &&& r.mask == r.pattern

/-- The mnemonic of a command. -/
def Instr.mnemonic : Instr → Mnemonic
  | .nop => .nop
  | .ldi _ => .ldi
  | .rdx _ => .rdx
  | .ld5 _ => .ld5
  | .st5 _ => .st5
  | .add _ _ _ => .add
  | .sub _ _ _ => .sub
  | .mul _ _ _ => .mul
  | .div _ _ _ => .div
  | .wrap _ _ => .wrap
  | .addw _ _ _ => .addw
  | .subw _ _ _ => .subw
  | .rdst => .rdst
  | .clrst => .clrst

/-! ## The encoder -/

/-- `CMD = op·4096 + rd·512 + rs1·64 + rs2·8 + z` with z = 0 (R61). -/
def pack (op : Nat) (rd rs1 rs2 : RegIdx) : CmdWord :=
  BitVec.ofNat 16 (op * 4096 + rd.val * 512 + rs1.val * 64 + rs2.val * 8)

/-- The word of a command: its opcode (R64) and its fields, an unused field being zero (R63). -/
def encode : Instr → CmdWord
  | .nop => pack 0x0 0 0 0
  | .ldi rd => pack 0x1 rd 0 0
  | .rdx rs1 => pack 0x2 0 rs1 0
  | .ld5 rd => pack 0x3 rd 0 0
  | .st5 rs1 => pack 0x4 0 rs1 0
  | .add rd rs1 rs2 => pack 0x5 rd rs1 rs2
  | .sub rd rs1 rs2 => pack 0x6 rd rs1 rs2
  | .mul rd rs1 rs2 => pack 0x7 rd rs1 rs2
  | .div rd rs1 rs2 => pack 0x8 rd rs1 rs2
  | .wrap rd rs1 => pack 0x9 rd rs1 0
  | .addw rd rs1 rs2 => pack 0xA rd rs1 rs2
  | .subw rd rs1 rs2 => pack 0xB rd rs1 rs2
  | .rdst => pack 0xC 0 0 0
  | .clrst => pack 0xD 0 0 0

end Sys2Proof
end

