-- ==== Sys2Proof/Machine/Operands.lean ====
section
/-! DEFINITION. The values commands compute with: width functions (00_scope.md R9), the reduction (R10), the 5-byte
image (20_memory.md R42, R43), and which registers a command reads and writes (10_state.md R23). -/

namespace Sys2Proof.Machine

/-- `s64(v)`: v modulo 2^64, as the register pattern that reads back as two's complement (R9). -/
def s64 (v : Int) : Word := BitVec.ofInt 64 v

/-- `wrap40(v) = v mod 2^40`, the Euclidean remainder (R9, R10, R100). -/
def wrap40 (v : Int) : Int := v % Config.modulus

/-- The value WRAP writes (R101). -/
def wrapValue (v : Word) : Word := s64 (wrap40 v.toInt)

/-- The value ADDW writes: "exact sum, then Euclidean remainder" (R102). -/
def addwValue (a b : Word) : Word := s64 (wrap40 (a.toInt + b.toInt))

/-- The value SUBW writes (R103). -/
def subwValue (a b : Word) : Word := s64 (wrap40 (a.toInt - b.toInt))

/-- `trunc(a / b)`, the rational quotient rounded toward zero (R9). -/
def truncQuotient (a b : Int) : Int := a.tdiv b

/-- `zext_64(BIN[4] ‖ BIN[3] ‖ BIN[2] ‖ BIN[1] ‖ BIN[0])` (R42, R124). -/
def imageToWord (b : Image) : Word :=
  BitVec.setWidth 64 (b[4] ++ b[3] ++ b[2] ++ b[1] ++ b[0])

/-- `BOUT[k] = v[8k+7:8k]` (R42, R126). -/
def wordToImage (v : Word) : Image :=
  Vector.ofFn fun k => v.extractLsb' (8 * k.val) 8

/-- The registers a command reads, in the order it reads them (R23, R156). -/
def sources : Instr → List RegIdx
  | .nop => []
  | .ldi _ => []
  | .rdx rs1 => [rs1]
  | .ld5 _ => []
  | .st5 rs1 => [rs1]
  | .add _ rs1 rs2 => [rs1, rs2]
  | .sub _ rs1 rs2 => [rs1, rs2]
  | .mul _ rs1 rs2 => [rs1, rs2]
  | .div _ rs1 rs2 => [rs1, rs2]
  | .wrap _ rs1 => [rs1]
  | .addw _ rs1 rs2 => [rs1, rs2]
  | .subw _ rs1 rs2 => [rs1, rs2]
  | .rdst => []
  | .clrst => []

/-- The register a command writes (R23); DIV does not write it when its divisor is zero. -/
def destination : Instr → Option RegIdx
  | .nop => none
  | .ldi rd => some rd
  | .rdx _ => none
  | .ld5 rd => some rd
  | .st5 _ => none
  | .add rd _ _ => some rd
  | .sub rd _ _ => some rd
  | .mul rd _ _ => some rd
  | .div rd _ _ => some rd
  | .wrap rd _ => some rd
  | .addw rd _ _ => some rd
  | .subw rd _ _ => some rd
  | .rdst => none
  | .clrst => none

end Sys2Proof.Machine
end

