-- ==== Sys2Proof/Machine/Ops.lean ====
section
/-! DEFINITION. The named operations over the state: registers and marks (00_scope.md R11; 10_state.md R24), the status
register (R26), the outputs (R28), recording an error (60_exceptions.md R150), sampling the port (20_memory.md R41) and
reset (70_reset_and_hazards.md R180). Each touches only the fields it names. -/

namespace Sys2Proof.Machine

/-! ## Registers -/

/-- The value of register xi. -/
def State.reg (i : RegIdx) (s : State) : Word := s.x[i.val]

/-- The written mark W[i] (R24). -/
def State.isWritten (i : RegIdx) (s : State) : Bool := s.written[i.val]

/-- A command reads xi. Where W[i] = 0 the spec's model ends in UnwrittenRead(i) and "the hardware would read an
unspecified value and continue" (R155). This model continues, and records the first such read (logs 1 and 2). -/
def State.noteRead (i : RegIdx) (s : State) : State :=
  { s with unwrittenRead := if s.isWritten i then s.unwrittenRead else s.unwrittenRead.or (some i) }

/-- "Operand reads, rs1 then rs2" (R156). -/
def State.noteReads (rs1 rs2 : RegIdx) (s : State) : State := (s.noteRead rs1).noteRead rs2

/-- `x[i] <- v`: "Write register xi ... and mark it written" (R11, R24). -/
def State.writeReg (i : RegIdx) (v : Word) (s : State) : State :=
  { s with x := s.x.set i.val v, written := s.written.set i.val true }

/-! ## Status -/

/-- `ST.f <- 1`, leaving every other bit (R11, R26). -/
def State.setStBit (b : StBit) (s : State) : State := { s with st := s.st ||| b.mask }

/-- Set a status bit when a condition holds; "otherwise unchanged (sticky)" (R81). -/
def State.setStBitIf (c : Bool) (b : StBit) (s : State) : State :=
  { s with st := if c then s.st ||| b.mask else s.st }

/-- `ST <- 0` (R142). -/
def State.clearSt (s : State) : State := { s with st := 0 }

/-- `raise E(info)`: set the bit of E and end the command with no other write (R150). The TVU has no traps, so this
is all that taking an error does: nothing is saved and there is no return (R157, R158). -/
def State.raise (e : HwError) (s : State) : State := s.setStBit e.bit

/-! ## Outputs -/

/-- `DOUT <- v` (R11, R28). -/
def State.driveDout (v : Word) (s : State) : State := { s with dout := v, doutDriven := true }

/-- `BOUT <- b` (R11, R28). -/
def State.driveBout (b : Image) (s : State) : State := { s with bout := b, boutDriven := true }

/-! ## The port -/

/-- CMD, DIN and BIN "are sampled together when the command is issued" (R41). -/
def State.sample (t : Transaction) (s : State) : State := { s with din := t.din, bin := t.bin }

/-- The host has presented its next event. -/
def State.withPending (rest : List HostEvent) (s : State) : State := { s with pending := rest }

/-- An illegal word: `raise IllegalCommand(w)` and nothing else (R66, R153). -/
def execIllegal (w : CmdWord) (s : State) : Result := .next (s.raise (.illegalCommand w))

/-- Reset between two commands (R180): the TVU's state becomes that of `State.reset`. What the host presents is no
state of the TVU, and the record of an unwritten read is never cleared (R155; log 9). -/
def State.hostReset (s : State) : State :=
  { State.reset with
    unwrittenRead := s.unwrittenRead, din := s.din, bin := s.bin, pending := s.pending }

end Sys2Proof.Machine
end

