-- ==== Sys2Proof/Machine/Arith.lean ====
section
/-! DEFINITION. ADD, SUB, MUL and DIV: raw 64-bit arithmetic, not reduced (40_arithmetic.md R80 to R89). -/

namespace Sys2Proof.Machine

/-- The 64-bit overflow law of ADD, SUB and MUL for the exact result e (R81): write s64(e), and set OV when e does not
fit. "Overflow never suppresses the write." -/
def rawResult (rd : RegIdx) (e : Int) (s : State) : Result :=
  .next ((s.setStBitIf (overflows e) .ov).writeReg rd (s64 e))

/-- ADD (R82). -/
def execAdd (rd rs1 rs2 : RegIdx) (s : State) : Result :=
  rawResult rd ((s.reg rs1).toInt + (s.reg rs2).toInt) (s.noteReads rs1 rs2)

/-- SUB (R83). -/
def execSub (rd rs1 rs2 : RegIdx) (s : State) : Result :=
  rawResult rd ((s.reg rs1).toInt - (s.reg rs2).toInt) (s.noteReads rs1 rs2)

/-- MUL (R84): "low 64 bits of the product". -/
def execMul (rd rs1 rs2 : RegIdx) (s : State) : Result :=
  rawResult rd ((s.reg rs1).toInt * (s.reg rs2).toInt) (s.noteReads rs1 rs2)

/-- DIV of dividend a by divisor b (R86, R152), after the reads. -/
def divide (rd : RegIdx) (a b : Int) (s : State) : State :=
  if b = 0 then s.raise (.divideByZero rd)
  else if a = Config.int64Min ∧ b = -1 then (s.setStBit .ov).writeReg rd (s64 Config.int64Min)
  else s.writeReg rd (s64 (truncQuotient a b))

/-- DIV (R86). -/
def execDiv (rd rs1 rs2 : RegIdx) (s : State) : Result :=
  .next (divide rd (s.reg rs1).toInt (s.reg rs2).toInt (s.noteReads rs1 rs2))

end Sys2Proof.Machine
end

