-- ==== Sys2Proof/Machine/Control.lean ====
section
/-! DEFINITION. NOP, RDST and CLRST (43_control.md R140 to R142). -/

namespace Sys2Proof.Machine

/-- NOP (R140): no effect. -/
def execNop (s : State) : Result := .next s

/-- RDST (R141): `DOUT <- zext_64(ST)`; ST is held at 64 bits (log 10). ST is not cleared. -/
def execRdst (s : State) : Result := .next (s.driveDout s.st)

/-- CLRST (R142). -/
def execClrst (s : State) : Result := .next s.clearSt

end Sys2Proof.Machine
end

