-- ==== Sys2Proof/Machine/Modular.lean ====
section
/-! DEFINITION. WRAP, ADDW and SUBW: reduction modulo 2^40, writing no flag (41_modular.md R100 to R107). -/

namespace Sys2Proof.Machine

/-- WRAP (R101). -/
def execWrap (rd rs1 : RegIdx) (s : State) : Result :=
  .next ((s.noteRead rs1).writeReg rd (wrapValue (s.reg rs1)))

/-- ADDW (R102). -/
def execAddw (rd rs1 rs2 : RegIdx) (s : State) : Result :=
  .next ((s.noteReads rs1 rs2).writeReg rd (addwValue (s.reg rs1) (s.reg rs2)))

/-- SUBW, the interval from the earlier timestamp rs2 to the later rs1 (R103). -/
def execSubw (rd rs1 rs2 : RegIdx) (s : State) : Result :=
  .next ((s.noteReads rs1 rs2).writeReg rd (subwValue (s.reg rs1) (s.reg rs2)))

end Sys2Proof.Machine
end

