-- ==== Sys2Proof/Machine/Transfer.lean ====
section
/-! DEFINITION. LDI, RDX, LD5 and ST5: values in and out through the port (42_transfer.md R120 to R127). -/

namespace Sys2Proof.Machine

/-- LDI (R120): the pattern of DIN, whose two's complement reading is s64(DIN). BIN is ignored. -/
def execLdi (rd : RegIdx) (s : State) : Result := .next (s.writeReg rd s.din)

/-- RDX (R122): DOUT is the 64-bit pattern of the register, not reduced. -/
def execRdx (rs1 : RegIdx) (s : State) : Result := .next ((s.noteRead rs1).driveDout (s.reg rs1))

/-- LD5 (R124): the little-endian image, zero-extended. DIN is ignored. -/
def execLd5 (rd : RegIdx) (s : State) : Result := .next (s.writeReg rd (imageToWord s.bin))

/-- ST5 (R126): the little-endian image of the low 40 bits. -/
def execSt5 (rs1 : RegIdx) (s : State) : Result :=
  .next ((s.noteRead rs1).driveBout (wordToImage (s.reg rs1)))

end Sys2Proof.Machine
end

