-- ==== Sys2Proof/Machine/Dispatch.lean ====
section
/-! DEFINITION. The effect of a command: one arm per row of the opcode map (30_encoding.md R64). -/

namespace Sys2Proof.Machine

def exec (i : Instr) (s : State) : Host.Outcome State Fault Refusal :=
  match i with
  | .nop => Sys2Proof.Machine.execNop s
  | .ldi rd => Sys2Proof.Machine.execLdi rd s
  | .rdx rs1 => Sys2Proof.Machine.execRdx rs1 s
  | .ld5 rd => Sys2Proof.Machine.execLd5 rd s
  | .st5 rs1 => Sys2Proof.Machine.execSt5 rs1 s
  | .add rd rs1 rs2 => Sys2Proof.Machine.execAdd rd rs1 rs2 s
  | .sub rd rs1 rs2 => Sys2Proof.Machine.execSub rd rs1 rs2 s
  | .mul rd rs1 rs2 => Sys2Proof.Machine.execMul rd rs1 rs2 s
  | .div rd rs1 rs2 => Sys2Proof.Machine.execDiv rd rs1 rs2 s
  | .wrap rd rs1 => Sys2Proof.Machine.execWrap rd rs1 s
  | .addw rd rs1 rs2 => Sys2Proof.Machine.execAddw rd rs1 rs2 s
  | .subw rd rs1 rs2 => Sys2Proof.Machine.execSubw rd rs1 rs2 s
  | .rdst => Sys2Proof.Machine.execRdst s
  | .clrst => Sys2Proof.Machine.execClrst s

end Sys2Proof.Machine
end

