-- ==== Sys2Proof/Machine/Issue.lean ====
section
/-! DEFINITION. Running an issued command word to completion (20_memory.md R41, R47; 30_encoding.md R65, R66). -/

namespace Sys2Proof.Machine

/-- Decode the command word and run it; an illegal word sets ST.IL and has no other effect (R65, R66). -/
def runWord (w : CmdWord) (s : State) : Result :=
  match decode w with
  | .ok i => exec i s
  | .error _ => execIllegal w s

/-- Run one issue transaction: sample the port, then execute (R41). -/
def runTransaction (t : Transaction) (s : State) : Result := runWord t.cmd (s.sample t)

end Sys2Proof.Machine
end

