-- ==== Sys2Proof/Machine/Step.lean ====
section
/-! DEFINITION. One step: the host's next event, an issued command running to completion (20_memory.md R47, R49). -/

namespace Sys2Proof.Machine

/-- One step. With nothing presented the TVU waits and nothing changes (log 7); an issue runs one whole command;
a reset resets (R180); two issues at once have no step (R50, I12; log 8). -/
def step (s : State) : Host.Outcome State Fault Refusal :=
  match s.pending with
  | [] => .next s
  | .issue t :: rest => runTransaction t (s.withPending rest)
  | .reset :: rest => .next (s.withPending rest).hostReset
  | .contend _ _ :: _ => .fault .concurrentIssue

/-- The host issues that command word next, ahead of what is pending, with the DIN and BIN that `s` holds (log 5).
The TVU fetches nothing (R22): a command comes to run because the host issues it. -/
def State.withFetchWord (s : State) (nbits w : Nat) : State :=
  { s with
    pending := .issue { cmd := BitVec.ofNat 16 (w % 2 ^ nbits), din := s.din, bin := s.bin } :: s.pending }

end Sys2Proof.Machine
end

