-- ==== Sys2Proof/Machine/Assembler.lean ====
section
/-! DEFINITION. The assembler notation of 30_encoding.md R68 and the pseudo-instructions of R69: from a line of text to
the issue transaction the host presents. Spacing and signs beyond R68 are in log 12. -/

namespace Sys2Proof.Machine

/-! ## Pseudo-instructions and issue transactions -/

/-- `T[8k+7:8k]` for k = 0..4: "The assembler splits T little-endian" (R69). -/
def imageOfInt (t : Int) : List Int :=
  [t % 256, t / 256 % 256, t / 65536 % 256, t / 16777216 % 256, t / 4294967296 % 256]

/-- A pseudo-instruction's expansion (R69); every other line is its own. -/
def expand : Source → Source
  | .plain i => .plain i
  | .ldi rd v => .ldi rd v
  | .ld5 rd image => .ld5 rd image
  | .word w => .word w
  | .li rd v => .ldi rd v
  | .clr rd => .ldi rd 0
  | .ldts rd t => .ld5 rd (imageOfInt t)
  | .interval rd later earlier => .plain (.subw rd later earlier)
  | .advance rd ts delta => .plain (.addw rd ts delta)

/-- The image whose byte k is the k-th integer (R68: "BIN[k] = bk"). -/
def imageOfList (bs : List Int) : Image := Vector.ofFn fun k => BitVec.ofInt 8 (bs.getD k.val 0)

/-- The transaction of a line that is no pseudo-instruction. DIN and BIN are 0 where R68 gives the line no port operand:
in the fields its command ignores, and in both for `.word`, even where the raw word decodes to LDI or LD5. R68 does not
say what they carry there; DESIGN CHOICE (log 13). -/
def coreTransaction : Source → Option Transaction
  | .plain i => some { cmd := encode i, din := 0, bin := imageOfList [] }
  | .ldi rd v => some { cmd := encode (.ldi rd), din := s64 v, bin := imageOfList [] }
  | .ld5 rd image => some { cmd := encode (.ld5 rd), din := 0, bin := imageOfList image }
  | .word w => some { cmd := BitVec.ofInt 16 w, din := 0, bin := imageOfList [] }
  | .li _ _ => none
  | .clr _ => none
  | .ldts _ _ => none
  | .interval _ _ _ => none
  | .advance _ _ _ => none

/-- The transaction of a line the assembler accepts (R68, R69). -/
def assemble (l : Source) : Option Transaction :=
  if l.wf then coreTransaction (expand l) else none

/-! ## Text -/

/-- The pieces of a line. -/
inductive Token where
  | word (cs : List Char)
  | comma
  | openBracket
  | closeBracket
deriving DecidableEq, Repr

/-- Put a finished word before the tokens that follow it. -/
def flushWord (cs : List Char) (ts : List Token) : List Token :=
  if cs.isEmpty then ts else .word cs :: ts

/-- Read one character before what has been read to its right: an unfinished word, and tokens. -/
def lexChar (c : Char) (r : List Char × List Token) : List Char × List Token :=
  if c = ' ' ∨ c = '\t' ∨ c = '\r' then ([], flushWord r.1 r.2)
  else if c = ',' then ([], .comma :: flushWord r.1 r.2)
  else if c = '[' then ([], .openBracket :: flushWord r.1 r.2)
  else if c = ']' then ([], .closeBracket :: flushWord r.1 r.2)
  else (c :: r.1, r.2)

/-- The tokens of a line; "`;` starts a comment" (R68). -/
def lex (line : List Char) : List Token :=
  let r := (line.takeWhile (· ≠ ';')).foldr lexChar ([], [])
  flushWord r.1 r.2

/-- The value of a digit, in either case. -/
def digitValue (c : Char) : Option Nat :=
  if '0' ≤ c ∧ c ≤ '9' then some (c.toNat - 48)
  else if 'a' ≤ c ∧ c ≤ 'f' then some (c.toNat - 87)
  else if 'A' ≤ c ∧ c ≤ 'F' then some (c.toNat - 55)
  else none

/-- One more digit of a numeral; "underscores in numerals only group digits" (R8). -/
def readDigit (base : Nat) (acc : Option Nat) (c : Char) : Option Nat :=
  if c = '_' then acc
  else match acc, digitValue c with
    | some n, some d => if d < base then some (n * base + d) else none
    | _, _ => none

/-- A numeral's digits, of which there is at least one. -/
def readDigits (base : Nat) (cs : List Char) : Option Nat :=
  if cs.all (· = '_') then none else cs.foldl (readDigit base) (some 0)

/-- "Numbers are decimal unless prefixed 0x (hexadecimal) or 0b (binary)" (R8). -/
def readNat : List Char → Option Nat
  | '0' :: 'x' :: cs => readDigits 16 cs
  | '0' :: 'b' :: cs => readDigits 2 cs
  | cs => readDigits 10 cs

/-- An integer; the minus sign is a hyphen or U+2212, as the spec's examples write it (log 12). -/
def readInt : List Char → Option Int
  | '-' :: cs => (readNat cs).map fun n => -(n : Int)
  | '−' :: cs => (readNat cs).map fun n => -(n : Int)
  | cs => (readNat cs).map fun n => (n : Int)

/-- "Registers are written x0 to x7" (R68). -/
def readReg : List Char → Option RegIdx
  | ['x', '0'] => some 0
  | ['x', '1'] => some 1
  | ['x', '2'] => some 2
  | ['x', '3'] => some 3
  | ['x', '4'] => some 4
  | ['x', '5'] => some 5
  | ['x', '6'] => some 6
  | ['x', '7'] => some 7
  | _ => none

/-- `.word 0xHHHH`: four hexadecimal digits (R68). -/
def readRawWord : List Char → Option Int
  | ['0', 'x', a, b, c, d] =>
    if '_' ∈ [a, b, c, d] then none else (readDigits 16 [a, b, c, d]).map fun n => (n : Int)
  | _ => none

/-- Lines without operand. -/
def parseNullary (m : List Char) : Option Source :=
  if m = "nop".toList then some (.plain .nop)
  else if m = "rdst".toList then some (.plain .rdst)
  else if m = "clrst".toList then some (.plain .clrst)
  else none

/-- Lines with one operand. -/
def parseUnary (m a : List Char) : Option Source :=
  if m = "rdx".toList then (readReg a).map fun r => .plain (.rdx r)
  else if m = "st5".toList then (readReg a).map fun r => .plain (.st5 r)
  else if m = "clr".toList then (readReg a).map .clr
  else if m = ".word".toList then (readRawWord a).map .word
  else none

/-- Lines with two operands. -/
def parseBinary (m a b : List Char) : Option Source :=
  match readReg a with
  | none => none
  | some rd =>
    if m = "wrap".toList then (readReg b).map fun r => .plain (.wrap rd r)
    else if m = "ldi".toList then (readInt b).map (.ldi rd)
    else if m = "li".toList then (readInt b).map (.li rd)
    else if m = "ldts".toList then (readInt b).map (.ldts rd)
    else none

/-- Lines with three register operands, "in the order rd, rs1, rs2" (R68). -/
def parseTernary (m a b c : List Char) : Option Source :=
  match readReg a, readReg b, readReg c with
  | some rd, some r1, some r2 =>
    if m = "add".toList then some (.plain (.add rd r1 r2))
    else if m = "sub".toList then some (.plain (.sub rd r1 r2))
    else if m = "mul".toList then some (.plain (.mul rd r1 r2))
    else if m = "div".toList then some (.plain (.div rd r1 r2))
    else if m = "addw".toList then some (.plain (.addw rd r1 r2))
    else if m = "subw".toList then some (.plain (.subw rd r1 r2))
    else if m = "interval".toList then some (.interval rd r1 r2)
    else if m = "advance".toList then some (.advance rd r1 r2)
    else none
  | _, _, _ => none

/-- `ld5 xd, [b0, b1, b2, b3, b4]` (R68). -/
def parseImage (m a b0 b1 b2 b3 b4 : List Char) : Option Source :=
  match readReg a, readInt b0, readInt b1, readInt b2, readInt b3, readInt b4 with
  | some rd, some v0, some v1, some v2, some v3, some v4 =>
    if m = "ld5".toList then some (.ld5 rd [v0, v1, v2, v3, v4]) else none
  | _, _, _, _, _, _ => none

/-- One line: none when malformed, `some none` when it holds no command. -/
def parseLine (line : List Char) : Option (Option Source) :=
  match lex line with
  | [] => some none
  | [.word m] => (parseNullary m).map some
  | [.word m, .word a] => (parseUnary m a).map some
  | [.word m, .word a, .comma, .word b] => (parseBinary m a b).map some
  | [.word m, .word a, .comma, .word b, .comma, .word c] => (parseTernary m a b c).map some
  | [.word m, .word a, .comma, .openBracket, .word b0, .comma, .word b1, .comma, .word b2, .comma, .word b3,
      .comma, .word b4, .closeBracket] => (parseImage m a b0 b1 b2 b3 b4).map some
  | _ => none

/-- A program, "one command per line" (R68): what the host issues, in order; none when a line is rejected. -/
def assembleLines : List (List Char) → Option (List HostEvent)
  | [] => some []
  | line :: rest =>
    match parseLine line, assembleLines rest with
    | some none, some es => some es
    | some (some l), some es => (assemble l).map fun t => .issue t :: es
    | _, _ => none

end Sys2Proof.Machine
end

