-- ==== Sys2Proof/Safety.lean ====
section
/-! DEFINITION. What counts as a safe run, in the terms claims use: the host has kept the obligations of
70_reset_and_hazards.md R182, and the state meets what 10_state.md says of every state. -/

namespace Sys2Proof.Machine

/-- `k` steps, each command seeing every effect of those before it (R49), stopping at the first fault: the host's
`Core.run` of this machine, at the machine's own types. -/
def run : Nat → State → Result
  | 0, s => .next s
  | k + 1, s =>
    match step s with
    | .next t => run k t
    | .fault r => .fault r
    | .refused r => .refused r

/-- The first register of the list whose written mark is 0: the one UnwrittenRead would name (R155, R156). -/
def firstUnwritten (rs : List RegIdx) (s : State) : Option RegIdx := rs.find? fun i => !s.isWritten i

/-- No register has been read before it was written: a run the spec's own model does not stop (R155, R182). -/
abbrev State.readsDefined (s : State) : Prop := s.unwrittenRead = none

/-- The host may read DOUT: an RDX or RDST has completed since reset (R182). -/
abbrev State.doutReadable (s : State) : Prop := s.doutDriven = true

/-- The host may read BOUT: an ST5 has completed since reset (R182). -/
abbrev State.boutReadable (s : State) : Prop := s.boutDriven = true

/-- "The legal values of ST are 0 to 7" (R25). -/
abbrev State.statusLegal (s : State) : Prop := s.st.toNat ≤ 7

/-- The integer fits in signed 64 bits (R25, R81). -/
abbrev FitsInt64 (e : Int) : Prop := -9223372036854775808 ≤ e ∧ e ≤ 9223372036854775807

/-- OV's meaning in R25's table: "A raw ADD, SUB or MUL result, or the DIV of -2^63 by -1, did not fit in signed 64
bits". -/
def RaisesOv (i : Instr) (s : State) : Prop :=
  match i with
  | .add _ rs1 rs2 => ¬FitsInt64 ((s.reg rs1).toInt + (s.reg rs2).toInt)
  | .sub _ rs1 rs2 => ¬FitsInt64 ((s.reg rs1).toInt - (s.reg rs2).toInt)
  | .mul _ rs1 rs2 => ¬FitsInt64 ((s.reg rs1).toInt * (s.reg rs2).toInt)
  | .div _ rs1 rs2 => (s.reg rs1).toInt = -9223372036854775808 ∧ (s.reg rs2).toInt = -1
  | .nop | .ldi _ | .rdx _ | .ld5 _ | .st5 _ | .wrap _ _ | .addw _ _ _ | .subw _ _ _ | .rdst | .clrst => False

/-- DZ's meaning in R25's table: "A DIV had a zero divisor". -/
def RaisesDz (i : Instr) (s : State) : Prop := ∃ rd rs1 rs2, i = .div rd rs1 rs2 ∧ s.reg rs2 = 0

/-- A register without its written mark holds what reset left there (R24: "nothing else changes it"; log 1). -/
abbrev State.unwrittenHoldReset (s : State) : Prop :=
  ∀ i : RegIdx, s.isWritten i = false → s.reg i = Config.resetReg

/-- The frame of a command that writes xrd after reading the registers `rs`: rd is marked written, and every other
register and mark, the outputs and the port fields are as before (R23, R24, R28). The value and ST are not said here.
The record of an unwritten read is the old one, or else the first register of `rs` that is unwritten (log 2). -/
structure WritesRegister (rd : RegIdx) (rs : List RegIdx) (s t : State) : Prop where
  marked : t.isWritten rd = true
  others : ∀ j, j ≠ rd → t.reg j = s.reg j ∧ t.isWritten j = s.isWritten j
  outputs : t.dout = s.dout ∧ t.bout = s.bout
  driven : t.doutDriven = s.doutDriven ∧ t.boutDriven = s.boutDriven
  port : t.din = s.din ∧ t.bin = s.bin ∧ t.pending = s.pending
  recorded : t.unwrittenRead = s.unwrittenRead.or (firstUnwritten rs s)

/-- The frame of a command that writes no register: every register, mark and port field is as before (R23, R24). -/
structure KeepsRegisters (rs : List RegIdx) (s t : State) : Prop where
  regs : ∀ j, t.reg j = s.reg j ∧ t.isWritten j = s.isWritten j
  port : t.din = s.din ∧ t.bin = s.bin ∧ t.pending = s.pending
  recorded : t.unwrittenRead = s.unwrittenRead.or (firstUnwritten rs s)

/-- Two states that agree on everything but values the spec leaves unspecified: registers not written since reset,
and DOUT and BOUT not driven since reset (R32). -/
structure SameDefined (s t : State) : Prop where
  written : s.written = t.written
  reg : ∀ i : RegIdx, s.isWritten i = true → s.reg i = t.reg i
  st : s.st = t.st
  doutDriven : s.doutDriven = t.doutDriven
  dout : s.doutDriven = true → s.dout = t.dout
  boutDriven : s.boutDriven = t.boutDriven
  bout : s.boutDriven = true → s.bout = t.bout
  unwrittenRead : s.unwrittenRead = t.unwrittenRead
  din : s.din = t.din
  bin : s.bin = t.bin
  pending : s.pending = t.pending

end Sys2Proof.Machine
end

