-- ==== Sys2Proof/Certificates/Slice0/Obligations.lean ====
section
/-! DEFINITION. What the provers are asked to settle. Each statement follows the rules of spec/ its docstring names.
Where a register has not been written since reset, the command still runs and the read is recorded (logs 1 and 2):
that clause (`recorded`, `unwrittenRead`) is the model's own choice in every statement below. So are the clauses on the
output marks `doutDriven` and `boutDriven` (log 4; R182 gives the obligation they record), on the sampled `din` and `bin`
(log 6) and on `pending` (log 5). -/

open Sys2Proof Sys2Proof.Machine

/-! ## Encoding and decoding -/

/-- One word of every row of R64, written out from R61's fields (95_test_vectors.md V-ENC), and illegal words of R66. -/
def Obligations.SpecWordsDecode : Prop :=
  decode 0x0000 = .ok .nop ∧ decode 0x1600 = .ok (.ldi 3) ∧ decode 0x20C0 = .ok (.rdx 3) ∧
  decode 0x3600 = .ok (.ld5 3) ∧ decode 0x40C0 = .ok (.st5 3) ∧ decode 0x5650 = .ok (.add 3 1 2) ∧
  decode 0x6650 = .ok (.sub 3 1 2) ∧ decode 0x7650 = .ok (.mul 3 1 2) ∧ decode 0x8650 = .ok (.div 3 1 2) ∧
  decode 0x9640 = .ok (.wrap 3 1) ∧ decode 0xA650 = .ok (.addw 3 1 2) ∧ decode 0xB650 = .ok (.subw 3 1 2) ∧
  decode 0xC000 = .ok .rdst ∧ decode 0xD000 = .ok .clrst ∧
  decode 0x0001 = .error .nonzeroZ ∧ decode 0x0200 = .error .nonzeroRd ∧ decode 0x1640 = .error .nonzeroRs1 ∧
  decode 0x9650 = .error .nonzeroRs2 ∧ decode 0xE000 = .error .reservedOpcode

/-- Decoding the word of a command gives the command back, with every register field at every value (R61, R65). -/
def Obligations.DecodeEncodeRoundTrip : Prop :=
  ∀ i : Instr, decode (encode i) = .ok i

/-- A command has exactly one word: a word that decodes to it is the word the encoder gives (R65, R67). -/
def Obligations.EachCommandHasOneWord : Prop :=
  ∀ (w : CmdWord) (i : Instr), decode w = .ok i → encode i = w

/-- R64's match and mask columns and R65's decoder agree on all 2^16 words: a word that decodes to a command is
selected by that mnemonic's row and no other, and a word is illegal exactly when no row selects it. -/
def Obligations.TableSelectsWhatDecodes : Prop :=
  ∀ w : CmdWord,
    (∀ i, decode w = .ok i →
      (opcodeTable.filter fun r => r.selects w).map TableRow.mnemonic = [i.mnemonic]) ∧
    ((∃ why, decode w = .error why) ↔ ∀ r ∈ opcodeTable, r.selects w = false)

/-- Which words are illegal (R66), in the fields' values: a reserved opcode, a nonzero z, or a nonzero field that the
class of R63 does not use. -/
def Obligations.IllegalWordsAreThese : Prop :=
  ∀ w : CmdWord,
    let op := w.toNat / 4096
    let rd := w.toNat / 512 % 8
    let rs1 := w.toNat / 64 % 8
    let rs2 := w.toNat / 8 % 8
    (∃ why, decode w = .error why) ↔
      (op = 14 ∨ op = 15) ∨ w.toNat % 8 ≠ 0 ∨
      ((op = 0 ∨ op = 12 ∨ op = 13) ∧ (rd ≠ 0 ∨ rs1 ≠ 0 ∨ rs2 ≠ 0)) ∨
      ((op = 1 ∨ op = 3) ∧ (rs1 ≠ 0 ∨ rs2 ≠ 0)) ∨
      ((op = 2 ∨ op = 4) ∧ (rd ≠ 0 ∨ rs2 ≠ 0)) ∨
      (op = 9 ∧ rs2 ≠ 0)

/-! ## The step -/

/-- An issued command word that decodes runs that command, on the sampled port fields, and nothing else happens
(R41, R47, R49). -/
def Obligations.StepRunsIssuedCommand : Prop :=
  ∀ (s : State) (u : Transaction) (rest : List HostEvent) (i : Instr),
    s.pending = .issue u :: rest → decode u.cmd = .ok i →
      step s = exec i { s with din := u.din, bin := u.bin, pending := rest }

/-- A word put where `step` takes its next command runs as that command on the state as it was (log 5). -/
def Obligations.PlacedWordRuns : Prop :=
  ∀ (s : State) (w : Nat) (i : Instr), decodeTableWord 16 w = some i → step (s.withFetchWord 16 w) = exec i s

/-- An illegal word sets ST.IL and has no other effect: no register, mark, output or record of a read changes, and the
next command is what was pending behind it (R153). -/
def Obligations.IllegalWordSetsOnlyIl : Prop :=
  ∀ (s : State) (u : Transaction) (rest : List HostEvent) (why : Illegal),
    s.pending = .issue u :: rest → decode u.cmd = .error why →
      step s = .next { s with st := s.st ||| 4, din := u.din, bin := u.bin, pending := rest }

/-- With nothing presented the TVU waits unchanged (the model's reading of R41 and R190, log 7). -/
def Obligations.NothingIssuedNothingChanges : Prop :=
  ∀ s : State, s.pending = [] → step s = .next s

/-- Two issues at the same time get no step; the model says so by a fault of its own name (R50, I12; log 8). -/
def Obligations.ConcurrentIssueHasNoStep : Prop :=
  ∀ (s : State) (u v : Transaction) (rest : List HostEvent),
    s.pending = .contend u v :: rest → step s = .fault .concurrentIssue

/-- What the spec gives of the state after reset: ST = 0 and every written mark 0 (R32, R180). -/
def Obligations.ResetClearsStatusAndMarks : Prop :=
  State.reset.st = 0 ∧ ∀ i, State.reset.isWritten i = false

/-- A reset between commands clears ST and every written mark (R180, R32). The other clauses are the model's choices:
the two output marks become false (logs 4 and 9), and the later events, the sampled DIN and BIN and the record of an
unwritten read are kept (log 9). -/
def Obligations.HostResetClearsStatusAndMarks : Prop :=
  ∀ (s : State) (rest : List HostEvent), s.pending = .reset :: rest →
    ∃ t, step s = .next t ∧ t.st = 0 ∧ (∀ i, t.isWritten i = false) ∧
      t.doutDriven = false ∧ t.boutDriven = false ∧
      t.pending = rest ∧ t.din = s.din ∧ t.bin = s.bin ∧ t.unwrittenRead = s.unwrittenRead

/-! ## No-op and status commands -/

/-- NOP has no effect, its one word is 0x0000, and any other word with op = 0 is illegal (R140). -/
def Obligations.NopHasNoEffect : Prop :=
  (∀ s, exec .nop s = .next s) ∧ encode .nop = 0x0000 ∧
  ∀ w : CmdWord, w.toNat / 4096 = 0 → w ≠ 0x0000 → ∃ why, decode w = .error why

/-- RDST puts zext_64(ST) on DOUT, bits 63:3 zero, and changes no register, mark, ST or BOUT; in particular it does not
clear ST. Directly after reset it gives 0, after an illegal word bit 2 shows, and its one word is 0xC000 (R141). That it
marks DOUT as driven and keeps BOUT's mark is the model's choice (log 4, for R182's obligation). -/
def Obligations.RdstReadsStatus : Prop :=
  encode .rdst = 0xC000 ∧
  (∀ w : CmdWord, w.toNat / 4096 = 12 → w ≠ 0xC000 → ∃ why, decode w = .error why) ∧
  (∀ s, ∃ t, exec .rdst s = .next t ∧ t.dout = s.st ∧ t.doutDriven = true ∧
    (s.statusLegal → ∀ k, 3 ≤ k → t.dout.getLsbD k = false) ∧
    t.st = s.st ∧ t.bout = s.bout ∧ t.boutDriven = s.boutDriven ∧ KeepsRegisters [] s t) ∧
  (∃ t, exec .rdst State.reset = .next t ∧ t.dout = 0) ∧
  (∀ w s t u why, decode w = .error why → runWord w s = .next t → exec .rdst t = .next u →
    u.dout.getLsbD 2 = true)

/-- CLRST sets ST to 0 and changes no register, mark, DOUT or BOUT; its word is 0xD000; an illegal word after it sets
IL again (R142). -/
def Obligations.ClrstClearsStatus : Prop :=
  encode .clrst = 0xD000 ∧
  (∀ s : State, exec .clrst s = .next { s with st := 0 }) ∧
  (∀ (s : State) (w : CmdWord) (why : Illegal), decode w = .error why → runWord w { s with st := 0 } = .next { s with st := 4 })

/-! ## Transfers -/

/-- LDI writes the two's complement reading of DIN, reads no register, sets no flag and ignores BIN (R120). -/
def Obligations.LdiLoadsDin : Prop :=
  (∀ rd : RegIdx, encode (.ldi rd) = BitVec.ofNat 16 (0x1000 + rd.val * 512)) ∧
  ∀ (rd : RegIdx) (s : State), ∃ t, exec (.ldi rd) s = .next t ∧
    (t.reg rd).toInt =
      (if 9223372036854775808 ≤ s.din.toNat then (s.din.toNat : Int) - 18446744073709551616 else s.din.toNat) ∧
    t.st = s.st ∧ WritesRegister rd [] s t ∧
    ∀ b, exec (.ldi rd) { s with bin := b } = .next { t with bin := b }

/-- LD5 writes the little-endian image of BIN zero-extended, reads no register, sets no flag and ignores DIN (R124). -/
def Obligations.Ld5LoadsImage : Prop :=
  (∀ rd : RegIdx, encode (.ld5 rd) = BitVec.ofNat 16 (0x3000 + rd.val * 512)) ∧
  ∀ (rd : RegIdx) (s : State), ∃ t, exec (.ld5 rd) s = .next t ∧
    (t.reg rd).toInt = ((s.bin[0].toNat + 256 * s.bin[1].toNat + 65536 * s.bin[2].toNat +
      16777216 * s.bin[3].toNat + 4294967296 * s.bin[4].toNat : Nat) : Int) ∧
    0 ≤ (t.reg rd).toInt ∧ (t.reg rd).toInt ≤ 1099511627775 ∧
    t.st = s.st ∧ WritesRegister rd [] s t ∧
    ∀ d, exec (.ld5 rd) { s with din := d } = .next { t with din := d }

/-- RDX puts the register's 64-bit pattern on DOUT, not reduced, and changes no register, mark, ST or BOUT (R122, R28).
That it marks DOUT as driven and keeps BOUT's mark is the model's choice (log 4, for R182's obligation), and so is the
record of an unwritten read (log 2). -/
def Obligations.RdxDrivesDout : Prop :=
  ∀ (rs1 : RegIdx) (s : State), ∃ t, exec (.rdx rs1) s = .next t ∧
    t.dout = s.reg rs1 ∧ t.doutDriven = true ∧
    t.st = s.st ∧ t.bout = s.bout ∧ t.boutDriven = s.boutDriven ∧ KeepsRegisters [rs1] s t

/-- ST5 puts bits 8k+7:8k of the register's pattern in BOUT[k], dropping bits 63:40 without a flag, and changes no
register, mark, ST or DOUT (R42, R43, R126). That it marks BOUT as driven and keeps DOUT's mark is the model's choice
(log 4, for R182's obligation), and so is the record of an unwritten read (log 2). -/
def Obligations.St5DrivesBout : Prop :=
  ∀ (rs1 : RegIdx) (s : State), ∃ t, exec (.st5 rs1) s = .next t ∧
    (∀ (k : Nat) (hk : k < 5), t.bout[k].toNat = (s.reg rs1).toNat / 256 ^ k % 256) ∧ t.boutDriven = true ∧
    t.st = s.st ∧ t.dout = s.dout ∧ t.doutDriven = s.doutDriven ∧ KeepsRegisters [rs1] s t

/-- R127: LD5 then ST5 gives the bytes back; ST5 then LD5 of its output gives wrap40; LDI then RDX gives the pattern
back; so an interval sent with ST5 is received by LD5 unchanged. -/
def Obligations.TransferRoundTrips : Prop :=
  (∀ (rd : RegIdx) (s : State), ∃ t u, exec (.ld5 rd) s = .next t ∧ exec (.st5 rd) t = .next u ∧ u.bout = s.bin) ∧
  (∀ (rs rd : RegIdx) (s : State), ∃ t u, exec (.st5 rs) s = .next t ∧
    exec (.ld5 rd) { t with bin := t.bout } = .next u ∧
    (u.reg rd).toInt = (s.reg rs).toInt % 1099511627776) ∧
  (∀ (rd : RegIdx) (s : State), ∃ t u, exec (.ldi rd) s = .next t ∧ exec (.rdx rd) t = .next u ∧ u.dout = s.din) ∧
  (∀ (ri rs1 rs2 rd : RegIdx) (s : State), ∃ t u v, exec (.subw ri rs1 rs2) s = .next t ∧
    exec (.st5 ri) t = .next u ∧ exec (.ld5 rd) { u with bin := u.bout } = .next v ∧ v.reg rd = t.reg ri)

/-! ## Raw arithmetic -/

/-- R81 for ADD, SUB and MUL with exact result e: the destination receives s64(e), written out from R9; OV is set when
e lies outside [-2^63, 2^63 - 1] and ST is unchanged otherwise; the write and the next state are there either way. -/
def Obligations.RawArithmeticOverflowLaw : Prop :=
  ∀ (rd rs1 rs2 : RegIdx) (s : State) (i : Instr) (e : Int),
    (i = .add rd rs1 rs2 ∧ e = (s.reg rs1).toInt + (s.reg rs2).toInt) ∨
    (i = .sub rd rs1 rs2 ∧ e = (s.reg rs1).toInt - (s.reg rs2).toInt) ∨
    (i = .mul rd rs1 rs2 ∧ e = (s.reg rs1).toInt * (s.reg rs2).toInt) →
    ∃ t, exec i s = .next t ∧
      (t.reg rd).toInt =
        (if 9223372036854775808 ≤ e % 18446744073709551616
          then e % 18446744073709551616 - 18446744073709551616 else e % 18446744073709551616) ∧
      (e < -9223372036854775808 ∨ 9223372036854775807 < e → t.st = s.st ||| 1) ∧
      (-9223372036854775808 ≤ e ∧ e ≤ 9223372036854775807 → t.st = s.st)

/-- The frame of ADD, SUB and MUL (R23, R28): nothing but the destination, its mark, ST.OV and the model's record of an
unwritten read (log 2) can differ. -/
def Obligations.RawArithmeticFrame : Prop :=
  ∀ (rd rs1 rs2 : RegIdx) (s : State) (i : Instr),
    i = .add rd rs1 rs2 ∨ i = .sub rd rs1 rs2 ∨ i = .mul rd rs1 rs2 →
    ∃ t, exec i s = .next t ∧ WritesRegister rd [rs1, rs2] s t ∧ (t.st = s.st ∨ t.st = s.st ||| 1)

/-- R88: for ADD, SUB and MUL, wrap40 of the register written is wrap40 of the exact result, whether or not OV is set,
so a later WRAP gives the exact modular result. For quotients there is no such law. -/
def Obligations.RawResultsCongruent : Prop :=
  (∀ (rd rs1 rs2 : RegIdx) (s : State) (i : Instr) (e : Int),
    (i = .add rd rs1 rs2 ∧ e = (s.reg rs1).toInt + (s.reg rs2).toInt) ∨
    (i = .sub rd rs1 rs2 ∧ e = (s.reg rs1).toInt - (s.reg rs2).toInt) ∨
    (i = .mul rd rs1 rs2 ∧ e = (s.reg rs1).toInt * (s.reg rs2).toInt) →
    ∃ t u, exec i s = .next t ∧ wrap40 (t.reg rd).toInt = wrap40 e ∧
      exec (.wrap rd rd) t = .next u ∧ (u.reg rd).toInt = e % 1099511627776) ∧
  ∃ a b : Int, wrap40 ((wrap40 a).tdiv (wrap40 b)) ≠ wrap40 (a.tdiv b)

/-- R85: MUL writes what the product of the unsigned readings gives. -/
def Obligations.MulSameSignedOrUnsigned : Prop :=
  ∀ (rd rs1 rs2 : RegIdx) (s : State), ∃ t, exec (.mul rd rs1 rs2) s = .next t ∧
    (t.reg rd).toNat = (s.reg rs1).toNat * (s.reg rs2).toNat % 18446744073709551616

/-- DIV with a nonzero divisor (R86): -2^63 by -1 writes -2^63 and sets OV; any other quotient is rounded toward zero,
is no greater in size than the dividend, and sets no flag. -/
def Obligations.DivTruncates : Prop :=
  ∀ (rd rs1 rs2 : RegIdx) (s : State), (s.reg rs2).toInt ≠ 0 →
    ∃ t, exec (.div rd rs1 rs2) s = .next t ∧ WritesRegister rd [rs1, rs2] s t ∧
      ((s.reg rs1).toInt = -9223372036854775808 ∧ (s.reg rs2).toInt = -1 →
        (t.reg rd).toInt = -9223372036854775808 ∧ t.st = s.st ||| 1) ∧
      (¬((s.reg rs1).toInt = -9223372036854775808 ∧ (s.reg rs2).toInt = -1) →
        (t.reg rd).toInt = (s.reg rs1).toInt.tdiv (s.reg rs2).toInt ∧
        (t.reg rd).toInt.natAbs ≤ (s.reg rs1).toInt.natAbs ∧ t.st = s.st)

/-- R87's table of signs, with the floors written as Euclidean quotients of non-negative numbers. -/
def Obligations.DivSignTable : Prop :=
  ∀ (rd rs1 rs2 : RegIdx) (s : State), ∃ t, exec (.div rd rs1 rs2) s = .next t ∧
    let a := (s.reg rs1).toInt
    let b := (s.reg rs2).toInt
    let q := (t.reg rd).toInt
    (0 ≤ a ∧ 0 < b → q = a / b ∧ 0 ≤ q) ∧
    (a < 0 ∧ 0 < b → q = -(-a / b) ∧ q ≤ 0) ∧
    (0 ≤ a ∧ b < 0 → q = -(a / -b) ∧ q ≤ 0) ∧
    (a < 0 ∧ b < 0 ∧ ¬(a = -9223372036854775808 ∧ b = -1) → q = -a / -b ∧ 0 ≤ q) ∧
    (a = -9223372036854775808 ∧ b = -1 → q = -9223372036854775808 ∧ t.st = s.st ||| 1) ∧
    (b = 0 → t.st = s.st ||| 2 ∧ q = (s.reg rd).toInt)

/-- DIV by zero sets DZ and writes nothing else: the destination keeps its value and its mark, written or not (R152). -/
def Obligations.DivByZeroSetsOnlyDz : Prop :=
  ∀ (rd rs1 rs2 : RegIdx) (s : State), s.reg rs2 = 0 →
    ∃ t, exec (.div rd rs1 rs2) s = .next t ∧ t.st = s.st ||| 2 ∧
      t.dout = s.dout ∧ t.bout = s.bout ∧ t.doutDriven = s.doutDriven ∧ t.boutDriven = s.boutDriven ∧
      KeepsRegisters [rs1, rs2] s t

/-! ## Modular reduction -/

/-- R10: wrap40 lies in [0, 2^40 - 1] for every integer, is the low 40 bits of a register's pattern, and has the source's
property wrap(t + 2^40) = t. -/
def Obligations.WrapIsLowFortyBits : Prop :=
  (∀ v : Int, 0 ≤ wrap40 v ∧ wrap40 v ≤ 1099511627775 ∧ ∃ k : Int, v = wrap40 v + k * 1099511627776) ∧
  (∀ w : Word, wrap40 w.toInt = ((w.extractLsb' 0 40).toNat : Int)) ∧
  (∀ t : Int, 0 ≤ t → t < 1099511627776 → wrap40 (t + 1099511627776) = t)

/-- WRAP writes the Euclidean remainder modulo 2^40 of its source, in place too, and writes no flag (R101). -/
def Obligations.WrapWritesRemainder : Prop :=
  ∀ (rd rs1 : RegIdx) (s : State), ∃ t, exec (.wrap rd rs1) s = .next t ∧
    (t.reg rd).toInt = (s.reg rs1).toInt % 1099511627776 ∧ t.st = s.st ∧ WritesRegister rd [rs1] s t

/-- ADDW and SUBW write the Euclidean remainder modulo 2^40 of the exact sum and difference, and write no flag (R102,
R103). -/
def Obligations.AddwSubwWriteRemainder : Prop :=
  ∀ (rd rs1 rs2 : RegIdx) (s : State) (i : Instr) (e : Int),
    (i = .addw rd rs1 rs2 ∧ e = (s.reg rs1).toInt + (s.reg rs2).toInt) ∨
    (i = .subw rd rs1 rs2 ∧ e = (s.reg rs1).toInt - (s.reg rs2).toInt) →
    ∃ t, exec i s = .next t ∧ (t.reg rd).toInt = e % 1099511627776 ∧ t.st = s.st ∧
      WritesRegister rd [rs1, rs2] s t

/-- R104: a datapath that adds or subtracts modulo 2^64 and keeps the low 40 bits writes what ADDW and SUBW write, the
exact value; the result and WRAP's are at most 2^40 - 1, and none of the three writes a flag. -/
def Obligations.FusedDatapathExact : Prop :=
  ∀ (rd rs1 rs2 : RegIdx) (s : State), ∃ t u v,
    exec (.addw rd rs1 rs2) s = .next t ∧ exec (.subw rd rs1 rs2) s = .next u ∧ exec (.wrap rd rs1) s = .next v ∧
    t.reg rd = ((s.reg rs1 + s.reg rs2).extractLsb' 0 40).setWidth 64 ∧
    u.reg rd = ((s.reg rs1 - s.reg rs2).extractLsb' 0 40).setWidth 64 ∧
    (t.reg rd).toInt = ((s.reg rs1).toInt + (s.reg rs2).toInt) % 1099511627776 ∧
    (u.reg rd).toInt = ((s.reg rs1).toInt - (s.reg rs2).toInt) % 1099511627776 ∧
    (t.reg rd).toNat ≤ 1099511627775 ∧ (u.reg rd).toNat ≤ 1099511627775 ∧ (v.reg rd).toNat ≤ 1099511627775 ∧
    t.st = s.st ∧ u.st = s.st ∧ v.st = s.st

/-- R105: ADDW leaves in xd what ADD then WRAP in place leaves there, and SUBW what SUB then WRAP leaves there. The two
ways end in the same state but for ST, where ADD and SUB may set OV and ADDW and SUBW never do. -/
def Obligations.FusedEqualsSequence : Prop :=
  ∀ (rd rs1 rs2 : RegIdx) (s : State) (fused raw : Instr),
    (fused = .addw rd rs1 rs2 ∧ raw = .add rd rs1 rs2) ∨ (fused = .subw rd rs1 rs2 ∧ raw = .sub rd rs1 rs2) →
    ∃ t u v, exec fused s = .next t ∧ exec raw s = .next u ∧ exec (.wrap rd rd) u = .next v ∧
      v.reg rd = t.reg rd ∧ { v with st := s.st } = t ∧ (v.st = s.st ∨ v.st = s.st ||| 1)

/-- R106's laws of the values ADDW, SUBW and WRAP write, for all 64-bit values. -/
def Obligations.ModularLaws : Prop :=
  (∀ (rd rs1 rs2 : RegIdx) (s : State), ∃ t u v,
    exec (.addw rd rs1 rs2) s = .next t ∧ t.reg rd = addwValue (s.reg rs1) (s.reg rs2) ∧
    exec (.subw rd rs1 rs2) s = .next u ∧ u.reg rd = subwValue (s.reg rs1) (s.reg rs2) ∧
    exec (.wrap rd rs1) s = .next v ∧ v.reg rd = wrapValue (s.reg rs1)) ∧
  (∀ a : Word, 0 ≤ (wrapValue a).toInt ∧ (wrapValue a).toInt ≤ 1099511627775) ∧
  (∀ a : Word, 0 ≤ a.toInt → a.toInt ≤ 1099511627775 → wrapValue a = a) ∧
  (∀ a : Word, wrapValue (wrapValue a) = wrapValue a) ∧
  (∀ t : Word, t.toNat < 1099511627776 → wrapValue (t + 1099511627776) = t) ∧
  (∀ a b : Word, addwValue a b = addwValue b a) ∧
  (∀ a b c : Word, addwValue (addwValue a b) c = addwValue a (addwValue b c)) ∧
  (∀ a b : Word, subwValue (addwValue a b) b = wrapValue a ∧ addwValue (subwValue a b) b = wrapValue a) ∧
  (∀ a b : Word, (subwValue a b = 0 ↔ a.toInt % 1099511627776 = b.toInt % 1099511627776) ∧
    (subwValue a b ≠ 0 → (subwValue a b).toInt + (subwValue b a).toInt = 1099511627776))

/-- R107, R187: with both timestamps reduced, a SUBW interval is the true number n of elapsed ticks exactly when n is in
[0, 2^40 - 1]; c is the true tick count at the earlier event. -/
def Obligations.IntervalIsElapsedTime : Prop :=
  ∀ (rd rs1 rs2 : RegIdx) (s : State) (c n : Int),
    (s.reg rs1).toInt = (c + n) % 1099511627776 → (s.reg rs2).toInt = c % 1099511627776 →
    ∃ t, exec (.subw rd rs1 rs2) s = .next t ∧
      ((t.reg rd).toInt = n ↔ 0 ≤ n ∧ n ≤ 1099511627775)

/-! ## Rules about every command -/

/-- R25: ST's legal values are 0 to 7 and stay so over every step, whatever the host presents. -/
def Obligations.StatusStaysLegal : Prop :=
  ∀ s t : State, s.statusLegal → step s = .next t → t.statusLegal

/-- R25, field by field, over one issued word. OV is 1 afterwards exactly when it was and the word is not CLRST, or the
command met OV's condition; DZ likewise with a zero divisor, which leaves the destination unchanged; IL likewise with
an illegal word, which is ignored; bits 63:3 are never set, and no bit is cleared but by CLRST. So no command writes a
chosen value into ST, and its values stay 0 to 7. RDST reads ST whole, CLRST and reset clear it whole. -/
def Obligations.StatusFieldRules : Prop :=
  (∀ (s t : State) (u : Transaction), runTransaction u s = .next t →
    (t.st.getLsbD 0 = true ↔ (s.st.getLsbD 0 = true ∧ decode u.cmd ≠ .ok .clrst) ∨
      ∃ i, decode u.cmd = .ok i ∧ RaisesOv i s) ∧
    (t.st.getLsbD 1 = true ↔ (s.st.getLsbD 1 = true ∧ decode u.cmd ≠ .ok .clrst) ∨
      ∃ i, decode u.cmd = .ok i ∧ RaisesDz i s) ∧
    (t.st.getLsbD 2 = true ↔ (s.st.getLsbD 2 = true ∧ decode u.cmd ≠ .ok .clrst) ∨
      ∃ why, decode u.cmd = .error why) ∧
    (∀ k, 3 ≤ k → (t.st.getLsbD k = true ↔ s.st.getLsbD k = true ∧ decode u.cmd ≠ .ok .clrst)) ∧
    (∀ rd rs1 rs2, decode u.cmd = .ok (.div rd rs1 rs2) → s.reg rs2 = 0 → t.reg rd = s.reg rd) ∧
    (∀ why, decode u.cmd = .error why →
      (∀ j, t.reg j = s.reg j ∧ t.isWritten j = s.isWritten j) ∧ t.dout = s.dout ∧ t.bout = s.bout) ∧
    (s.statusLegal → t.statusLegal)) ∧
  (∀ s, ∃ t, exec .rdst s = .next t ∧ t.dout = s.st ∧ (s.statusLegal → ∀ k, 3 ≤ k → t.dout.getLsbD k = false)) ∧
  (∀ s, ∃ t, exec .clrst s = .next t ∧ t.st = 0) ∧
  (∀ (s : State) (rest : List HostEvent), s.pending = .reset :: rest → ∃ t, step s = .next t ∧ t.st = 0) ∧
  State.reset.st = 0

/-- R26: over every step, where the host issues CLRST or asserts reset ST becomes 0, and everywhere else every bit of
ST that is 1 stays 1. -/
def Obligations.StatusBitsSticky : Prop :=
  ∀ s t : State, step s = .next t →
    let clears := (∃ u rest, s.pending = .issue u :: rest ∧ decode u.cmd = .ok .clrst) ∨
      ∃ rest, s.pending = .reset :: rest
    (clears → t.st = 0) ∧ (¬clears → ∀ k, s.st.getLsbD k = true → t.st.getLsbD k = true)

/-- R156: one issued word sets at most one bit of ST; otherwise it leaves ST alone, or it is CLRST. -/
def Obligations.AtMostOneStatusBitSet : Prop :=
  ∀ (s t : State) (u : Transaction), runTransaction u s = .next t →
    t.st = s.st ∨ t.st = s.st ||| 1 ∨ t.st = s.st ||| 2 ∨ t.st = s.st ||| 4 ∨
    (decode u.cmd = .ok .clrst ∧ t.st = 0)

/-- R23's table, writes: every command answers a next state in which only its destination register and that register's
mark may differ, and the destination is marked written, except by a DIV whose divisor is zero. -/
def Obligations.OnlyDestinationWritten : Prop :=
  ∀ (i : Instr) (s : State), ∃ t, exec i s = .next t ∧
    (∀ j, destination i ≠ some j → t.reg j = s.reg j ∧ t.isWritten j = s.isWritten j) ∧
    (∀ j, destination i = some j → t.isWritten j = true ∨
      ∃ rs1 rs2, i = .div j rs1 rs2 ∧ s.reg rs2 = 0 ∧ t.reg j = s.reg j ∧ t.isWritten j = s.isWritten j)

/-- R23's table, reads: the value of a register that is no source of a command has no effect on what the command does.
With another value v there, the command ends in the same state, but for that register where the command does not
write it. -/
def Obligations.OnlySourcesRead : Prop :=
  ∀ (i : Instr) (s t : State) (j : RegIdx) (v : Word), j ∉ sources i → exec i s = .next t →
    ∃ u, exec i { s with x := s.x.set j.val v } = .next u ∧
      (∀ k, k ≠ j → u.reg k = t.reg k) ∧ (u.reg j = t.reg j ∨ (u.reg j = v ∧ t.reg j = s.reg j)) ∧
      { u with x := t.x } = t

/-- R28: RDX writes DOUT with a register and RDST with ST, ST5 writes BOUT with a register's image, and no other issued
word, legal or not, changes either output. That it keeps that output's mark as well is the model's choice (log 4). -/
def Obligations.OutputsKeptByOtherCommands : Prop :=
  (∀ (rs1 : RegIdx) (s : State), ∃ t, exec (.rdx rs1) s = .next t ∧ t.dout = s.reg rs1 ∧ t.bout = s.bout) ∧
  (∀ s : State, ∃ t, exec .rdst s = .next t ∧ t.dout = s.st ∧ t.bout = s.bout) ∧
  (∀ (rs1 : RegIdx) (s : State), ∃ t, exec (.st5 rs1) s = .next t ∧ t.dout = s.dout ∧
    ∀ (k : Nat) (hk : k < 5), t.bout[k] = (s.reg rs1).extractLsb' (8 * k) 8) ∧
  (∀ (s t : State) (u : Transaction), runTransaction u s = .next t →
    ((∀ rs1, decode u.cmd ≠ .ok (.rdx rs1)) → decode u.cmd ≠ .ok .rdst →
      t.dout = s.dout ∧ t.doutDriven = s.doutDriven) ∧
    ((∀ rs1, decode u.cmd ≠ .ok (.st5 rs1)) → t.bout = s.bout ∧ t.boutDriven = s.boutDriven))

/-- R41: "A command ignores the fields it does not use": only LDI sees DIN and only LD5 sees BIN, among all words. -/
def Obligations.UnusedPortFieldsIgnored : Prop :=
  ∀ (s t : State) (u v : Transaction), v.cmd = u.cmd →
    ((∃ rd, decode u.cmd = .ok (.ldi rd)) → v.din = u.din) →
    ((∃ rd, decode u.cmd = .ok (.ld5 rd)) → v.bin = u.bin) →
    runTransaction u s = .next t → runTransaction v s = .next { t with din := v.din, bin := v.bin }

/-- R46: the reading commands change no register and no ST bit; NOP, RDX, ST5 and RDST twice is the same as once; so are
LDI, LD5, CLRST and a WRAP whose destination is not its source; ADD, SUB, MUL, DIV, ADDW and SUBW are not. -/
def Obligations.Idempotence : Prop :=
  (∀ (s : State) (i : Instr), (i = .rdst ∨ ∃ r, i = .rdx r ∨ i = .st5 r) →
    ∃ t, exec i s = .next t ∧ t.st = s.st ∧ (∀ j, t.reg j = s.reg j) ∧
      ((∃ r, i = .st5 r) → t.dout = s.dout) ∧ ((∀ r, i ≠ .st5 r) → t.bout = s.bout)) ∧
  (∀ (s : State) (i : Instr),
    (i = .nop ∨ i = .rdst ∨ i = .clrst ∨ ∃ r, i = .rdx r ∨ i = .st5 r ∨ i = .ldi r ∨ i = .ld5 r ∨
      ∃ r', r' ≠ r ∧ i = .wrap r r') →
    ∃ t, exec i s = .next t ∧ exec i t = .next t) ∧
  (∀ mk ∈ [Instr.add, Instr.sub, Instr.mul, Instr.div, Instr.addw, Instr.subw],
    ∃ s t u, exec (mk 1 1 2) s = .next t ∧ exec (mk 1 1 2) t = .next u ∧ u.reg 1 ≠ t.reg 1)

/-! ## Registers not written since reset -/

/-- A register without its written mark still holds what reset left there, over every step (R24: "Every write sets it to
1, and nothing else changes it"). That there is a reset value at all is the model's choice (log 1). -/
def Obligations.UnwrittenRegistersHoldReset : Prop :=
  ∀ s t : State, s.unwrittenHoldReset → step s = .next t → t.unwrittenHoldReset

/-- The state after reset meets the invariants above. -/
def Obligations.ResetMeetsInvariants : Prop :=
  State.reset.statusLegal ∧ State.reset.unwrittenHoldReset ∧ State.reset.readsDefined

/-- A command records the register that R155's UnwrittenRead names, rs1 before rs2 (R156), unless one is recorded
already; the record is the model's (log 2). -/
def Obligations.UnwrittenReadRecorded : Prop :=
  ∀ (i : Instr) (s : State), ∃ t, exec i s = .next t ∧
    t.unwrittenRead = s.unwrittenRead.or ((sources i).find? fun r => !s.isWritten r)

/-- "The fault is never cleared" (R155): no step clears the record, not even a reset (logs 2 and 9). -/
def Obligations.UnwrittenReadNeverCleared : Prop :=
  ∀ (s t : State) (r : RegIdx), s.unwrittenRead = some r → step s = .next t → t.unwrittenRead = some r

/-- The unspecified values after reset do not matter (R24, R32, R182): of two machines that differ only in registers not
written and outputs not driven since reset, if one runs k steps and has read no unwritten register, the other runs k
steps and differs from it in no more. So no result of such a run rests on the values the model chose (logs 1 and 3). -/
def Obligations.UnspecifiedValuesDoNotMatter : Prop :=
  ∀ (k : Nat) (s s' t : State), SameDefined s s' → run k s = .next t → t.readsDefined →
    ∃ t', run k s' = .next t' ∧ SameDefined t t'

/-! ## The assembler notation -/

/-- R69's expansions: each pseudo-instruction assembles to what its expansion assembles to, and the image that `ldts`
splits T into loads T back. -/
def Obligations.PseudoInstructionsExpand : Prop :=
  (∀ rd v, assemble (.li rd v) = assemble (.ldi rd v)) ∧
  (∀ rd, assemble (.clr rd) = assemble (.ldi rd 0)) ∧
  (∀ rd later earlier, assemble (.interval rd later earlier) = assemble (.plain (.subw rd later earlier))) ∧
  (∀ rd ts delta, assemble (.advance rd ts delta) = assemble (.plain (.addw rd ts delta))) ∧
  (∀ rd (t : Int), 0 ≤ t → t < 1099511627776 →
    assemble (.ldts rd t) =
      assemble (.ld5 rd [t % 256, t / 256 % 256, t / 65536 % 256, t / 16777216 % 256, t / 4294967296 % 256]) ∧
    ∃ u, assemble (.ldts rd t) = some u ∧
      ∀ s, ∃ s', runTransaction u s = .next s' ∧ (s'.reg rd).toInt = t)

/-- R68: `ldi xd, V` assembles exactly for V in [-2^63, 2^64), to a transaction that loads s64(V), and `ld5` exactly for
five bytes in [0, 255]. -/
def Obligations.AssemblerAcceptsInRange : Prop :=
  (∀ (rd : RegIdx) (v : Int), (∃ u, assemble (.ldi rd v) = some u) ↔
    -9223372036854775808 ≤ v ∧ v < 18446744073709551616) ∧
  (∀ (rd : RegIdx) (v : Int) (u : Transaction), assemble (.ldi rd v) = some u →
    ∀ s, ∃ t, runTransaction u s = .next t ∧ ∃ k : Int, (t.reg rd).toInt = v + k * 18446744073709551616) ∧
  (∀ (rd : RegIdx) (bs : List Int), (∃ u, assemble (.ld5 rd bs) = some u) ↔
    bs.length = 5 ∧ ∀ b ∈ bs, 0 ≤ b ∧ b ≤ 255)
end

