-- ==== Sys2Proof/Laws/Assembler.lean ====
section
/-! SUPPORT. What the assembler's checks say (30_encoding.md R68, R69). -/

namespace Sys2Proof

theorem inRange_iff (lo v hi : Int) : inRange lo v hi = true ↔ lo ≤ v ∧ v < hi := by
  simp [inRange]

namespace Machine

/-- The assembler answers for the lines it accepts and for no other. -/
theorem assemble_eq (l : Source) :
    assemble l = if l.wf = true then coreTransaction (expand l) else none := rfl

theorem wf_ldi_iff (rd : RegIdx) (v : Int) :
    (Source.ldi rd v).wf = true ↔ -9223372036854775808 ≤ v ∧ v < 18446744073709551616 :=
  inRange_iff ..

theorem wf_ldts_iff (rd : RegIdx) (t : Int) :
    (Source.ldts rd t).wf = true ↔ 0 ≤ t ∧ t < 1099511627776 :=
  inRange_iff ..

theorem wf_ld5_iff (rd : RegIdx) (bs : List Int) :
    (Source.ld5 rd bs).wf = true ↔ bs.length = 5 ∧ ∀ b ∈ bs, 0 ≤ b ∧ b < 256 := by
  simp [Source.wf, inRange]

end Machine

end Sys2Proof
end

