-- ==== Sys2Proof/Laws/State.lean ====
section
/-! SUPPORT. One lemma per field per update of the state, true by rfl, and what the register accessors read after each
update, so that no later proof unfolds a record update. -/

namespace Sys2Proof.Machine

variable (s : State)

/-! ## noteRead -/

@[simp] theorem noteRead_x (i : RegIdx) : (s.noteRead i).x = s.x := rfl
@[simp] theorem noteRead_written (i : RegIdx) : (s.noteRead i).written = s.written := rfl
@[simp] theorem noteRead_st (i : RegIdx) : (s.noteRead i).st = s.st := rfl
@[simp] theorem noteRead_dout (i : RegIdx) : (s.noteRead i).dout = s.dout := rfl
@[simp] theorem noteRead_bout (i : RegIdx) : (s.noteRead i).bout = s.bout := rfl
@[simp] theorem noteRead_doutDriven (i : RegIdx) : (s.noteRead i).doutDriven = s.doutDriven := rfl
@[simp] theorem noteRead_boutDriven (i : RegIdx) : (s.noteRead i).boutDriven = s.boutDriven := rfl
@[simp] theorem noteRead_unwrittenRead (i : RegIdx) : (s.noteRead i).unwrittenRead = if s.isWritten i then s.unwrittenRead else s.unwrittenRead.or (some i) := rfl
@[simp] theorem noteRead_din (i : RegIdx) : (s.noteRead i).din = s.din := rfl
@[simp] theorem noteRead_bin (i : RegIdx) : (s.noteRead i).bin = s.bin := rfl
@[simp] theorem noteRead_pending (i : RegIdx) : (s.noteRead i).pending = s.pending := rfl
@[simp] theorem noteRead_reg (i : RegIdx) (k : RegIdx) : (s.noteRead i).reg k = s.reg k := rfl
@[simp] theorem noteRead_isWritten (i : RegIdx) (k : RegIdx) : (s.noteRead i).isWritten k = s.isWritten k := rfl

/-! ## noteReads -/

@[simp] theorem noteReads_x (i j : RegIdx) : (s.noteReads i j).x = s.x := rfl
@[simp] theorem noteReads_written (i j : RegIdx) : (s.noteReads i j).written = s.written := rfl
@[simp] theorem noteReads_st (i j : RegIdx) : (s.noteReads i j).st = s.st := rfl
@[simp] theorem noteReads_dout (i j : RegIdx) : (s.noteReads i j).dout = s.dout := rfl
@[simp] theorem noteReads_bout (i j : RegIdx) : (s.noteReads i j).bout = s.bout := rfl
@[simp] theorem noteReads_doutDriven (i j : RegIdx) : (s.noteReads i j).doutDriven = s.doutDriven := rfl
@[simp] theorem noteReads_boutDriven (i j : RegIdx) : (s.noteReads i j).boutDriven = s.boutDriven := rfl
@[simp] theorem noteReads_din (i j : RegIdx) : (s.noteReads i j).din = s.din := rfl
@[simp] theorem noteReads_bin (i j : RegIdx) : (s.noteReads i j).bin = s.bin := rfl
@[simp] theorem noteReads_pending (i j : RegIdx) : (s.noteReads i j).pending = s.pending := rfl
@[simp] theorem noteReads_reg (i j : RegIdx) (k : RegIdx) : (s.noteReads i j).reg k = s.reg k := rfl
@[simp] theorem noteReads_isWritten (i j : RegIdx) (k : RegIdx) : (s.noteReads i j).isWritten k = s.isWritten k := rfl

/-! ## writeReg -/

@[simp] theorem writeReg_x (i : RegIdx) (v : Word) : (s.writeReg i v).x = s.x.set i.val v := rfl
@[simp] theorem writeReg_written (i : RegIdx) (v : Word) : (s.writeReg i v).written = s.written.set i.val true := rfl
@[simp] theorem writeReg_st (i : RegIdx) (v : Word) : (s.writeReg i v).st = s.st := rfl
@[simp] theorem writeReg_dout (i : RegIdx) (v : Word) : (s.writeReg i v).dout = s.dout := rfl
@[simp] theorem writeReg_bout (i : RegIdx) (v : Word) : (s.writeReg i v).bout = s.bout := rfl
@[simp] theorem writeReg_doutDriven (i : RegIdx) (v : Word) : (s.writeReg i v).doutDriven = s.doutDriven := rfl
@[simp] theorem writeReg_boutDriven (i : RegIdx) (v : Word) : (s.writeReg i v).boutDriven = s.boutDriven := rfl
@[simp] theorem writeReg_unwrittenRead (i : RegIdx) (v : Word) : (s.writeReg i v).unwrittenRead = s.unwrittenRead := rfl
@[simp] theorem writeReg_din (i : RegIdx) (v : Word) : (s.writeReg i v).din = s.din := rfl
@[simp] theorem writeReg_bin (i : RegIdx) (v : Word) : (s.writeReg i v).bin = s.bin := rfl
@[simp] theorem writeReg_pending (i : RegIdx) (v : Word) : (s.writeReg i v).pending = s.pending := rfl

/-! ## setStBit -/

@[simp] theorem setStBit_x (b : StBit) : (s.setStBit b).x = s.x := rfl
@[simp] theorem setStBit_written (b : StBit) : (s.setStBit b).written = s.written := rfl
@[simp] theorem setStBit_st (b : StBit) : (s.setStBit b).st = s.st ||| b.mask := rfl
@[simp] theorem setStBit_dout (b : StBit) : (s.setStBit b).dout = s.dout := rfl
@[simp] theorem setStBit_bout (b : StBit) : (s.setStBit b).bout = s.bout := rfl
@[simp] theorem setStBit_doutDriven (b : StBit) : (s.setStBit b).doutDriven = s.doutDriven := rfl
@[simp] theorem setStBit_boutDriven (b : StBit) : (s.setStBit b).boutDriven = s.boutDriven := rfl
@[simp] theorem setStBit_unwrittenRead (b : StBit) : (s.setStBit b).unwrittenRead = s.unwrittenRead := rfl
@[simp] theorem setStBit_din (b : StBit) : (s.setStBit b).din = s.din := rfl
@[simp] theorem setStBit_bin (b : StBit) : (s.setStBit b).bin = s.bin := rfl
@[simp] theorem setStBit_pending (b : StBit) : (s.setStBit b).pending = s.pending := rfl
@[simp] theorem setStBit_reg (b : StBit) (k : RegIdx) : (s.setStBit b).reg k = s.reg k := rfl
@[simp] theorem setStBit_isWritten (b : StBit) (k : RegIdx) : (s.setStBit b).isWritten k = s.isWritten k := rfl

/-! ## setStBitIf -/

@[simp] theorem setStBitIf_x (c : Bool) (b : StBit) : (s.setStBitIf c b).x = s.x := rfl
@[simp] theorem setStBitIf_written (c : Bool) (b : StBit) : (s.setStBitIf c b).written = s.written := rfl
@[simp] theorem setStBitIf_st (c : Bool) (b : StBit) : (s.setStBitIf c b).st = if c then s.st ||| b.mask else s.st := rfl
@[simp] theorem setStBitIf_dout (c : Bool) (b : StBit) : (s.setStBitIf c b).dout = s.dout := rfl
@[simp] theorem setStBitIf_bout (c : Bool) (b : StBit) : (s.setStBitIf c b).bout = s.bout := rfl
@[simp] theorem setStBitIf_doutDriven (c : Bool) (b : StBit) : (s.setStBitIf c b).doutDriven = s.doutDriven := rfl
@[simp] theorem setStBitIf_boutDriven (c : Bool) (b : StBit) : (s.setStBitIf c b).boutDriven = s.boutDriven := rfl
@[simp] theorem setStBitIf_unwrittenRead (c : Bool) (b : StBit) : (s.setStBitIf c b).unwrittenRead = s.unwrittenRead := rfl
@[simp] theorem setStBitIf_din (c : Bool) (b : StBit) : (s.setStBitIf c b).din = s.din := rfl
@[simp] theorem setStBitIf_bin (c : Bool) (b : StBit) : (s.setStBitIf c b).bin = s.bin := rfl
@[simp] theorem setStBitIf_pending (c : Bool) (b : StBit) : (s.setStBitIf c b).pending = s.pending := rfl
@[simp] theorem setStBitIf_reg (c : Bool) (b : StBit) (k : RegIdx) : (s.setStBitIf c b).reg k = s.reg k := rfl
@[simp] theorem setStBitIf_isWritten (c : Bool) (b : StBit) (k : RegIdx) : (s.setStBitIf c b).isWritten k = s.isWritten k := rfl

/-! ## clearSt -/

@[simp] theorem clearSt_x : (s.clearSt).x = s.x := rfl
@[simp] theorem clearSt_written : (s.clearSt).written = s.written := rfl
@[simp] theorem clearSt_st : (s.clearSt).st = 0 := rfl
@[simp] theorem clearSt_dout : (s.clearSt).dout = s.dout := rfl
@[simp] theorem clearSt_bout : (s.clearSt).bout = s.bout := rfl
@[simp] theorem clearSt_doutDriven : (s.clearSt).doutDriven = s.doutDriven := rfl
@[simp] theorem clearSt_boutDriven : (s.clearSt).boutDriven = s.boutDriven := rfl
@[simp] theorem clearSt_unwrittenRead : (s.clearSt).unwrittenRead = s.unwrittenRead := rfl
@[simp] theorem clearSt_din : (s.clearSt).din = s.din := rfl
@[simp] theorem clearSt_bin : (s.clearSt).bin = s.bin := rfl
@[simp] theorem clearSt_pending : (s.clearSt).pending = s.pending := rfl
@[simp] theorem clearSt_reg (k : RegIdx) : (s.clearSt).reg k = s.reg k := rfl
@[simp] theorem clearSt_isWritten (k : RegIdx) : (s.clearSt).isWritten k = s.isWritten k := rfl

/-! ## raise -/

@[simp] theorem raise_x (e : HwError) : (s.raise e).x = s.x := rfl
@[simp] theorem raise_written (e : HwError) : (s.raise e).written = s.written := rfl
@[simp] theorem raise_st (e : HwError) : (s.raise e).st = s.st ||| e.bit.mask := rfl
@[simp] theorem raise_dout (e : HwError) : (s.raise e).dout = s.dout := rfl
@[simp] theorem raise_bout (e : HwError) : (s.raise e).bout = s.bout := rfl
@[simp] theorem raise_doutDriven (e : HwError) : (s.raise e).doutDriven = s.doutDriven := rfl
@[simp] theorem raise_boutDriven (e : HwError) : (s.raise e).boutDriven = s.boutDriven := rfl
@[simp] theorem raise_unwrittenRead (e : HwError) : (s.raise e).unwrittenRead = s.unwrittenRead := rfl
@[simp] theorem raise_din (e : HwError) : (s.raise e).din = s.din := rfl
@[simp] theorem raise_bin (e : HwError) : (s.raise e).bin = s.bin := rfl
@[simp] theorem raise_pending (e : HwError) : (s.raise e).pending = s.pending := rfl
@[simp] theorem raise_reg (e : HwError) (k : RegIdx) : (s.raise e).reg k = s.reg k := rfl
@[simp] theorem raise_isWritten (e : HwError) (k : RegIdx) : (s.raise e).isWritten k = s.isWritten k := rfl

/-! ## driveDout -/

@[simp] theorem driveDout_x (v : Word) : (s.driveDout v).x = s.x := rfl
@[simp] theorem driveDout_written (v : Word) : (s.driveDout v).written = s.written := rfl
@[simp] theorem driveDout_st (v : Word) : (s.driveDout v).st = s.st := rfl
@[simp] theorem driveDout_dout (v : Word) : (s.driveDout v).dout = v := rfl
@[simp] theorem driveDout_bout (v : Word) : (s.driveDout v).bout = s.bout := rfl
@[simp] theorem driveDout_doutDriven (v : Word) : (s.driveDout v).doutDriven = true := rfl
@[simp] theorem driveDout_boutDriven (v : Word) : (s.driveDout v).boutDriven = s.boutDriven := rfl
@[simp] theorem driveDout_unwrittenRead (v : Word) : (s.driveDout v).unwrittenRead = s.unwrittenRead := rfl
@[simp] theorem driveDout_din (v : Word) : (s.driveDout v).din = s.din := rfl
@[simp] theorem driveDout_bin (v : Word) : (s.driveDout v).bin = s.bin := rfl
@[simp] theorem driveDout_pending (v : Word) : (s.driveDout v).pending = s.pending := rfl
@[simp] theorem driveDout_reg (v : Word) (k : RegIdx) : (s.driveDout v).reg k = s.reg k := rfl
@[simp] theorem driveDout_isWritten (v : Word) (k : RegIdx) : (s.driveDout v).isWritten k = s.isWritten k := rfl

/-! ## driveBout -/

@[simp] theorem driveBout_x (b : Image) : (s.driveBout b).x = s.x := rfl
@[simp] theorem driveBout_written (b : Image) : (s.driveBout b).written = s.written := rfl
@[simp] theorem driveBout_st (b : Image) : (s.driveBout b).st = s.st := rfl
@[simp] theorem driveBout_dout (b : Image) : (s.driveBout b).dout = s.dout := rfl
@[simp] theorem driveBout_bout (b : Image) : (s.driveBout b).bout = b := rfl
@[simp] theorem driveBout_doutDriven (b : Image) : (s.driveBout b).doutDriven = s.doutDriven := rfl
@[simp] theorem driveBout_boutDriven (b : Image) : (s.driveBout b).boutDriven = true := rfl
@[simp] theorem driveBout_unwrittenRead (b : Image) : (s.driveBout b).unwrittenRead = s.unwrittenRead := rfl
@[simp] theorem driveBout_din (b : Image) : (s.driveBout b).din = s.din := rfl
@[simp] theorem driveBout_bin (b : Image) : (s.driveBout b).bin = s.bin := rfl
@[simp] theorem driveBout_pending (b : Image) : (s.driveBout b).pending = s.pending := rfl
@[simp] theorem driveBout_reg (b : Image) (k : RegIdx) : (s.driveBout b).reg k = s.reg k := rfl
@[simp] theorem driveBout_isWritten (b : Image) (k : RegIdx) : (s.driveBout b).isWritten k = s.isWritten k := rfl

/-! ## sample -/

@[simp] theorem sample_x (t : Transaction) : (s.sample t).x = s.x := rfl
@[simp] theorem sample_written (t : Transaction) : (s.sample t).written = s.written := rfl
@[simp] theorem sample_st (t : Transaction) : (s.sample t).st = s.st := rfl
@[simp] theorem sample_dout (t : Transaction) : (s.sample t).dout = s.dout := rfl
@[simp] theorem sample_bout (t : Transaction) : (s.sample t).bout = s.bout := rfl
@[simp] theorem sample_doutDriven (t : Transaction) : (s.sample t).doutDriven = s.doutDriven := rfl
@[simp] theorem sample_boutDriven (t : Transaction) : (s.sample t).boutDriven = s.boutDriven := rfl
@[simp] theorem sample_unwrittenRead (t : Transaction) : (s.sample t).unwrittenRead = s.unwrittenRead := rfl
@[simp] theorem sample_din (t : Transaction) : (s.sample t).din = t.din := rfl
@[simp] theorem sample_bin (t : Transaction) : (s.sample t).bin = t.bin := rfl
@[simp] theorem sample_pending (t : Transaction) : (s.sample t).pending = s.pending := rfl
@[simp] theorem sample_reg (t : Transaction) (k : RegIdx) : (s.sample t).reg k = s.reg k := rfl
@[simp] theorem sample_isWritten (t : Transaction) (k : RegIdx) : (s.sample t).isWritten k = s.isWritten k := rfl

/-! ## withPending -/

@[simp] theorem withPending_x (es : List HostEvent) : (s.withPending es).x = s.x := rfl
@[simp] theorem withPending_written (es : List HostEvent) : (s.withPending es).written = s.written := rfl
@[simp] theorem withPending_st (es : List HostEvent) : (s.withPending es).st = s.st := rfl
@[simp] theorem withPending_dout (es : List HostEvent) : (s.withPending es).dout = s.dout := rfl
@[simp] theorem withPending_bout (es : List HostEvent) : (s.withPending es).bout = s.bout := rfl
@[simp] theorem withPending_doutDriven (es : List HostEvent) : (s.withPending es).doutDriven = s.doutDriven := rfl
@[simp] theorem withPending_boutDriven (es : List HostEvent) : (s.withPending es).boutDriven = s.boutDriven := rfl
@[simp] theorem withPending_unwrittenRead (es : List HostEvent) : (s.withPending es).unwrittenRead = s.unwrittenRead := rfl
@[simp] theorem withPending_din (es : List HostEvent) : (s.withPending es).din = s.din := rfl
@[simp] theorem withPending_bin (es : List HostEvent) : (s.withPending es).bin = s.bin := rfl
@[simp] theorem withPending_pending (es : List HostEvent) : (s.withPending es).pending = es := rfl
@[simp] theorem withPending_reg (es : List HostEvent) (k : RegIdx) : (s.withPending es).reg k = s.reg k := rfl
@[simp] theorem withPending_isWritten (es : List HostEvent) (k : RegIdx) : (s.withPending es).isWritten k = s.isWritten k := rfl

/-! ## withFetchWord -/

@[simp] theorem withFetchWord_x (n w : Nat) : (s.withFetchWord n w).x = s.x := rfl
@[simp] theorem withFetchWord_written (n w : Nat) : (s.withFetchWord n w).written = s.written := rfl
@[simp] theorem withFetchWord_st (n w : Nat) : (s.withFetchWord n w).st = s.st := rfl
@[simp] theorem withFetchWord_dout (n w : Nat) : (s.withFetchWord n w).dout = s.dout := rfl
@[simp] theorem withFetchWord_bout (n w : Nat) : (s.withFetchWord n w).bout = s.bout := rfl
@[simp] theorem withFetchWord_doutDriven (n w : Nat) : (s.withFetchWord n w).doutDriven = s.doutDriven := rfl
@[simp] theorem withFetchWord_boutDriven (n w : Nat) : (s.withFetchWord n w).boutDriven = s.boutDriven := rfl
@[simp] theorem withFetchWord_unwrittenRead (n w : Nat) : (s.withFetchWord n w).unwrittenRead = s.unwrittenRead := rfl
@[simp] theorem withFetchWord_din (n w : Nat) : (s.withFetchWord n w).din = s.din := rfl
@[simp] theorem withFetchWord_bin (n w : Nat) : (s.withFetchWord n w).bin = s.bin := rfl
@[simp] theorem withFetchWord_pending (n w : Nat) : (s.withFetchWord n w).pending = .issue { cmd := BitVec.ofNat 16 (w % 2 ^ n), din := s.din, bin := s.bin } :: s.pending := rfl
@[simp] theorem withFetchWord_reg (n w : Nat) (k : RegIdx) : (s.withFetchWord n w).reg k = s.reg k := rfl
@[simp] theorem withFetchWord_isWritten (n w : Nat) (k : RegIdx) : (s.withFetchWord n w).isWritten k = s.isWritten k := rfl

/-! ## hostReset -/

@[simp] theorem hostReset_x : (s.hostReset).x = State.reset.x := rfl
@[simp] theorem hostReset_written : (s.hostReset).written = State.reset.written := rfl
@[simp] theorem hostReset_st : (s.hostReset).st = 0 := rfl
@[simp] theorem hostReset_dout : (s.hostReset).dout = Config.resetDout := rfl
@[simp] theorem hostReset_bout : (s.hostReset).bout = State.reset.bout := rfl
@[simp] theorem hostReset_doutDriven : (s.hostReset).doutDriven = false := rfl
@[simp] theorem hostReset_boutDriven : (s.hostReset).boutDriven = false := rfl
@[simp] theorem hostReset_unwrittenRead : (s.hostReset).unwrittenRead = s.unwrittenRead := rfl
@[simp] theorem hostReset_din : (s.hostReset).din = s.din := rfl
@[simp] theorem hostReset_bin : (s.hostReset).bin = s.bin := rfl
@[simp] theorem hostReset_pending : (s.hostReset).pending = s.pending := rfl

/-! ## Registers and marks after a write, and after reset -/

/-- A write changes the register it names and no other (R20: "No register aliases another"). -/
@[simp] theorem writeReg_reg (i : RegIdx) (v : Word) (j : RegIdx) :
    (s.writeReg i v).reg j = if j = i then v else s.reg j := by
  simp only [State.reg, writeReg_x, Vector.getElem_set, Fin.ext_iff, eq_comm]

/-- A write marks the register it names and no other (R24). -/
@[simp] theorem writeReg_isWritten (i : RegIdx) (v : Word) (j : RegIdx) :
    (s.writeReg i v).isWritten j = if j = i then true else s.isWritten j := by
  simp only [State.isWritten, writeReg_written, Vector.getElem_set, Fin.ext_iff, eq_comm]

@[simp] theorem reset_reg (j : RegIdx) : State.reset.reg j = Config.resetReg := by
  simp [State.reg, State.reset]

@[simp] theorem reset_isWritten (j : RegIdx) : State.reset.isWritten j = false := by
  simp [State.isWritten, State.reset]

@[simp] theorem hostReset_reg (j : RegIdx) : s.hostReset.reg j = Config.resetReg := reset_reg j

@[simp] theorem hostReset_isWritten (j : RegIdx) : s.hostReset.isWritten j = false := reset_isWritten j

/-- Two states that agree on every register hold the same register file. -/
theorem x_eq_of_reg {s t : State} (h : ∀ j, s.reg j = t.reg j) : s.x = t.x :=
  Vector.ext fun k hk => h ⟨k, hk⟩

/-- Two states that agree on every mark hold the same marks. -/
theorem written_eq_of_isWritten {s t : State} (h : ∀ j, s.isWritten j = t.isWritten j) :
    s.written = t.written :=
  Vector.ext fun k hk => h ⟨k, hk⟩

/-! ## The record of an unwritten read -/

/-- One read records its register when that is unwritten and nothing is recorded yet (R155; log 2). -/
theorem noteRead_record (i : RegIdx) :
    (s.noteRead i).unwrittenRead = s.unwrittenRead.or (firstUnwritten [i] s) := by
  cases h : s.isWritten i <;> simp [firstUnwritten, h]

/-- Two reads record the first of the two that is unwritten: "rs1 then rs2" (R156). -/
@[simp] theorem noteReads_unwrittenRead (i j : RegIdx) :
    (s.noteReads i j).unwrittenRead = s.unwrittenRead.or (firstUnwritten [i, j] s) := by
  cases h : s.isWritten i <;> cases h' : s.isWritten j <;>
    simp [State.noteReads, firstUnwritten, h, h']

@[simp] theorem firstUnwritten_nil : firstUnwritten [] s = none := rfl

end Sys2Proof.Machine
end

