-- ==== Sys2Proof/Laws/Ops.lean ====
section
/-! SUPPORT. One lemma for each shared operation that says everything it can do; provers cite these instead of
unfolding the operations. -/

namespace Sys2Proof.Machine

/-! ## Flags -/

@[simp] theorem mask_ov : StBit.mask .ov = 1 := rfl
@[simp] theorem mask_dz : StBit.mask .dz = 2 := rfl
@[simp] theorem mask_il : StBit.mask .il = 4 := rfl

theorem overflows_iff (e : Int) :
    overflows e = true ↔ e < -9223372036854775808 ∨ 9223372036854775807 < e := by
  simp only [overflows, Bool.or_eq_true, decide_eq_true_eq]
  rfl

theorem overflows_iff_not_fits (e : Int) : overflows e = true ↔ ¬FitsInt64 e := by
  rw [overflows_iff]
  omega

/-- Setting a status bit keeps ST legal (R25). -/
theorem or_mask_legal {v : Word} (h : v.toNat ≤ 7) (b : StBit) : (v ||| b.mask).toNat ≤ 7 := by
  have hb : b.mask.toNat < 2 ^ 3 := by cases b <;> decide
  have hv : v.toNat < 2 ^ 3 := by omega
  have := Nat.or_lt_two_pow hv hb
  rw [BitVec.toNat_or]
  omega

/-! ## Values -/

/-- The reduction lies in [0, 2^40) (R10, R100). -/
theorem wrap40_bounds (v : Int) : 0 ≤ wrap40 v ∧ wrap40 v < 1099511627776 :=
  ⟨Int.emod_nonneg _ (by decide), Int.emod_lt_of_pos _ (by decide)⟩

/-- Writing a value that fits loses nothing. -/
theorem toInt_s64 {v : Int} (lo : -9223372036854775808 ≤ v) (hi : v ≤ 9223372036854775807) :
    (s64 v).toInt = v := by
  have hi' : v < 9223372036854775807 + 1 := by omega
  rw [s64, BitVec.toInt_ofInt, Int.bmod_eq_of_le (by simpa using lo) (by simpa using hi')]

/-- A reduced value reads back as itself. -/
theorem toInt_s64_wrap40 (v : Int) : (s64 (wrap40 v)).toInt = wrap40 v := by
  have := wrap40_bounds v
  exact toInt_s64 (by omega) (by omega)

/-- `s64` written out from R9. -/
theorem s64_toInt (e : Int) :
    (s64 e).toInt =
      if 9223372036854775808 ≤ e % 18446744073709551616
      then e % 18446744073709551616 - 18446744073709551616 else e % 18446744073709551616 := by
  rw [s64, BitVec.toInt_ofInt, Int.bmod_def]
  norm_num
  split <;> split <;> omega

/-- The reduction sees only the residue, so a value may be narrowed to 64 bits first (R10, R88). -/
theorem wrap40_s64 (e : Int) : wrap40 (s64 e).toInt = wrap40 e := by
  rw [s64_toInt, wrap40, wrap40, Config.modulus]
  split <;> omega

/-- Byte k of an image weighs 256^k (R42). -/
theorem imageToWord_toNat (b : Image) :
    (imageToWord b).toNat = b[0].toNat + 256 * b[1].toNat + 65536 * b[2].toNat +
      16777216 * b[3].toNat + 4294967296 * b[4].toNat := by
  simp only [imageToWord, BitVec.toNat_setWidth, BitVec.toNat_append]
  rw [← Nat.shiftLeft_add_eq_or_of_lt (by omega), ← Nat.shiftLeft_add_eq_or_of_lt (by omega),
    ← Nat.shiftLeft_add_eq_or_of_lt (by omega), ← Nat.shiftLeft_add_eq_or_of_lt (by omega)]
  simp only [Nat.shiftLeft_eq]
  omega

/-- Entry k of an image is `v[8k+7:8k]` (R42). -/
theorem wordToImage_getElem (v : Word) (k : Nat) (hk : k < 5) :
    (wordToImage v)[k] = v.extractLsb' (8 * k) 8 := by
  simp [wordToImage]

/-! ## Reads -/

/-- Recording a read keeps an earlier record (R155: "The fault is never cleared"). -/
theorem noteRead_keeps {s : State} {i : RegIdx} {r : RegIdx} (h : s.unwrittenRead = some r) :
    (s.noteRead i).unwrittenRead = some r := by
  simp [h]

/-- A read leaves the record empty exactly when it was empty and the register is written. -/
theorem noteRead_none_iff (s : State) (i : RegIdx) :
    (s.noteRead i).unwrittenRead = none ↔ s.unwrittenRead = none ∧ s.isWritten i = true := by
  cases h : s.isWritten i <;> simp [h]

/-! ## Commands -/

theorem exec_nop (s : State) : exec .nop s = .next s := rfl

theorem exec_ldi (rd : RegIdx) (s : State) : exec (.ldi rd) s = .next (s.writeReg rd s.din) := rfl

theorem exec_rdx (rs1 : RegIdx) (s : State) :
    exec (.rdx rs1) s = .next ((s.noteRead rs1).driveDout (s.reg rs1)) := rfl

theorem exec_ld5 (rd : RegIdx) (s : State) :
    exec (.ld5 rd) s = .next (s.writeReg rd (imageToWord s.bin)) := rfl

theorem exec_st5 (rs1 : RegIdx) (s : State) :
    exec (.st5 rs1) s = .next ((s.noteRead rs1).driveBout (wordToImage (s.reg rs1))) := rfl

theorem exec_add (rd rs1 rs2 : RegIdx) (s : State) :
    exec (.add rd rs1 rs2) s =
      rawResult rd ((s.reg rs1).toInt + (s.reg rs2).toInt) (s.noteReads rs1 rs2) := rfl

theorem exec_sub (rd rs1 rs2 : RegIdx) (s : State) :
    exec (.sub rd rs1 rs2) s =
      rawResult rd ((s.reg rs1).toInt - (s.reg rs2).toInt) (s.noteReads rs1 rs2) := rfl

theorem exec_mul (rd rs1 rs2 : RegIdx) (s : State) :
    exec (.mul rd rs1 rs2) s =
      rawResult rd ((s.reg rs1).toInt * (s.reg rs2).toInt) (s.noteReads rs1 rs2) := rfl

theorem exec_div (rd rs1 rs2 : RegIdx) (s : State) :
    exec (.div rd rs1 rs2) s =
      .next (divide rd (s.reg rs1).toInt (s.reg rs2).toInt (s.noteReads rs1 rs2)) := rfl

theorem exec_wrap (rd rs1 : RegIdx) (s : State) :
    exec (.wrap rd rs1) s = .next ((s.noteRead rs1).writeReg rd (wrapValue (s.reg rs1))) := rfl

theorem exec_addw (rd rs1 rs2 : RegIdx) (s : State) :
    exec (.addw rd rs1 rs2) s =
      .next ((s.noteReads rs1 rs2).writeReg rd (addwValue (s.reg rs1) (s.reg rs2))) := rfl

theorem exec_subw (rd rs1 rs2 : RegIdx) (s : State) :
    exec (.subw rd rs1 rs2) s =
      .next ((s.noteReads rs1 rs2).writeReg rd (subwValue (s.reg rs1) (s.reg rs2))) := rfl

theorem exec_rdst (s : State) : exec .rdst s = .next (s.driveDout s.st) := rfl

theorem exec_clrst (s : State) : exec .clrst s = .next s.clearSt := rfl

/-- What `rawResult` answers (R81). -/
theorem rawResult_next {rd : RegIdx} {e : Int} {s t : State} (h : rawResult rd e s = .next t) :
    t = (s.setStBitIf (overflows e) .ov).writeReg rd (s64 e) := by
  simpa [rawResult] using h.symm

/-- DIV does one of three things (R86). -/
theorem divide_cases (rd : RegIdx) (a b : Int) (s : State) :
    (b = 0 ∧ divide rd a b s = s.raise (.divideByZero rd)) ∨
    (a = -9223372036854775808 ∧ b = -1 ∧
      divide rd a b s = (s.setStBit .ov).writeReg rd (s64 (-9223372036854775808))) ∨
    (b ≠ 0 ∧ ¬(a = -9223372036854775808 ∧ b = -1) ∧ divide rd a b s = s.writeReg rd (s64 (a.tdiv b))) := by
  unfold divide
  by_cases hb : b = 0
  · exact .inl ⟨hb, by rw [if_pos hb]⟩
  · by_cases ho : a = Config.int64Min ∧ b = -1
    · exact .inr (.inl ⟨ho.1, ho.2, by rw [if_neg hb, if_pos ho]; rfl⟩)
    · exact .inr (.inr ⟨hb, ho, by rw [if_neg hb, if_neg ho]; rfl⟩)

@[simp] theorem not_raisesOv_clrst (s : State) : ¬RaisesOv .clrst s := fun h => h

@[simp] theorem not_raisesDz_clrst (s : State) : ¬RaisesDz .clrst s := by simp [RaisesDz]

/-- Sampling the port leaves the registers, so it leaves the conditions on them. -/
@[simp] theorem raisesOv_sample (i : Instr) (t : Transaction) (s : State) :
    RaisesOv i (s.sample t) ↔ RaisesOv i s := by
  cases i <;> rfl

@[simp] theorem raisesDz_sample (i : Instr) (t : Transaction) (s : State) :
    RaisesDz i (s.sample t) ↔ RaisesDz i s := Iff.rfl

/-- What a raw result does to ST (R81). -/
theorem rawResult_st {rd : RegIdx} {e : Int} {s t : State} (h : rawResult rd e s = .next t) :
    (¬FitsInt64 e ∧ t.st = s.st ||| 1) ∨ (FitsInt64 e ∧ t.st = s.st) := by
  cases rawResult_next h
  by_cases hf : FitsInt64 e
  · exact .inr ⟨hf, by simp [Bool.eq_false_iff.mpr fun ho => (overflows_iff_not_fits e).mp ho hf]⟩
  · exact .inl ⟨hf, by simp [(overflows_iff_not_fits e).mpr hf]⟩

/-- Everything a command can do to ST (R25): CLRST clears it, a command meeting OV's or DZ's condition sets that bit,
and every other command leaves it. -/
theorem exec_st_cases {i : Instr} {s t : State} (h : exec i s = .next t) :
    (i = .clrst ∧ t.st = 0) ∨
    (i ≠ .clrst ∧ RaisesOv i s ∧ ¬RaisesDz i s ∧ t.st = s.st ||| 1) ∨
    (i ≠ .clrst ∧ ¬RaisesOv i s ∧ RaisesDz i s ∧ t.st = s.st ||| 2) ∨
    (i ≠ .clrst ∧ ¬RaisesOv i s ∧ ¬RaisesDz i s ∧ t.st = s.st) := by
  cases i with
  | clrst => cases h; exact .inl ⟨rfl, rfl⟩
  | add rd rs1 rs2 =>
    rcases rawResult_st h with ⟨hf, ht⟩ | ⟨hf, ht⟩ <;> simp [RaisesOv, RaisesDz, hf, ht]
  | sub rd rs1 rs2 =>
    rcases rawResult_st h with ⟨hf, ht⟩ | ⟨hf, ht⟩ <;> simp [RaisesOv, RaisesDz, hf, ht]
  | mul rd rs1 rs2 =>
    rcases rawResult_st h with ⟨hf, ht⟩ | ⟨hf, ht⟩ <;> simp [RaisesOv, RaisesDz, hf, ht]
  | div rd rs1 rs2 =>
    have hz : s.reg rs2 = 0 ↔ (s.reg rs2).toInt = 0 := BitVec.toInt_inj.symm
    rcases divide_cases rd (s.reg rs1).toInt (s.reg rs2).toInt (s.noteReads rs1 rs2) with
      ⟨hb, hd⟩ | ⟨ha, hb, hd⟩ | ⟨hb, ho, hd⟩ <;>
    · rw [exec_div, hd] at h
      cases h
      simp_all [RaisesOv, RaisesDz, HwError.bit]
  | _ => cases h; simp [RaisesOv, RaisesDz]

/-! ## Steps -/

/-- A command word runs its command or, when illegal, sets IL (R65, R66). -/
theorem runWord_cases (w : CmdWord) (s : State) :
    (∃ i, decode w = .ok i ∧ runWord w s = exec i s) ∨
    (∃ why, decode w = .error why ∧ runWord w s = .next (s.raise (.illegalCommand w))) := by
  cases h : decode w with
  | ok i => exact .inl ⟨i, rfl, by simp [runWord, h]⟩
  | error why => exact .inr ⟨why, rfl, by simp [runWord, h, execIllegal]⟩

/-- What a step that answers a next state has done: waited, run one transaction, or reset. -/
theorem step_cases {s t : State} (h : step s = .next t) :
    (s.pending = [] ∧ t = s) ∨
    (∃ u rest, s.pending = .issue u :: rest ∧ runTransaction u (s.withPending rest) = .next t) ∨
    (∃ rest, s.pending = .reset :: rest ∧ t = (s.withPending rest).hostReset) := by
  unfold step at h
  split at h
  · exact .inl ⟨‹_›, by simpa using h.symm⟩
  · exact .inr (.inl ⟨_, _, ‹_›, h⟩)
  · exact .inr (.inr ⟨_, ‹_›, by simpa using h.symm⟩)
  · cases h

end Sys2Proof.Machine
end

