-- ==== Sys2Proof/Laws/PerInstr.lean ====
section
/-! SUPPORT. Families of statements about a command as data, one lemma per constructor of `Instr`. -/

namespace Sys2Proof.Laws

/-- The encoder's word is selected by the command's own row of R64's table, and by no row of another mnemonic
("At most one row's match holds for any word"). -/
def OwnRow.Statement (i : Instr) : Prop :=
  (opcodeTable.filter fun r => r.selects (encode i)).map TableRow.mnemonic = [i.mnemonic]

theorem OwnRow.nop : OwnRow.Statement .nop := by unfold OwnRow.Statement; decide
theorem OwnRow.ldi : ∀ rd, OwnRow.Statement (.ldi rd) := by unfold OwnRow.Statement; decide
theorem OwnRow.rdx : ∀ rs1, OwnRow.Statement (.rdx rs1) := by unfold OwnRow.Statement; decide
theorem OwnRow.ld5 : ∀ rd, OwnRow.Statement (.ld5 rd) := by unfold OwnRow.Statement; decide
theorem OwnRow.st5 : ∀ rs1, OwnRow.Statement (.st5 rs1) := by unfold OwnRow.Statement; decide
theorem OwnRow.wrap : ∀ rd rs1, OwnRow.Statement (.wrap rd rs1) := by unfold OwnRow.Statement; decide
theorem OwnRow.rdst : OwnRow.Statement .rdst := by unfold OwnRow.Statement; decide
theorem OwnRow.clrst : OwnRow.Statement .clrst := by unfold OwnRow.Statement; decide
theorem OwnRow.add : ∀ rd rs1 rs2, OwnRow.Statement (.add rd rs1 rs2) := by unfold OwnRow.Statement; decide
theorem OwnRow.sub : ∀ rd rs1 rs2, OwnRow.Statement (.sub rd rs1 rs2) := by unfold OwnRow.Statement; decide
theorem OwnRow.mul : ∀ rd rs1 rs2, OwnRow.Statement (.mul rd rs1 rs2) := by unfold OwnRow.Statement; decide
theorem OwnRow.div : ∀ rd rs1 rs2, OwnRow.Statement (.div rd rs1 rs2) := by unfold OwnRow.Statement; decide
theorem OwnRow.addw : ∀ rd rs1 rs2, OwnRow.Statement (.addw rd rs1 rs2) := by unfold OwnRow.Statement; decide
theorem OwnRow.subw : ∀ rd rs1 rs2, OwnRow.Statement (.subw rd rs1 rs2) := by unfold OwnRow.Statement; decide

end Sys2Proof.Laws
end

