-- ==== Sys2Proof/Laws/Run.lean ====
section
/-! SUPPORT. Runs of several steps, one step at a time. -/

namespace Sys2Proof.Machine

/-- A step that answers a next state, and then the rest of the run. -/
theorem run_succ_of_step {k : Nat} {s u : State} (h : step s = .next u) : run (k + 1) s = run k u := by
  rw [run, h]

/-- A run stops at a fault. -/
theorem run_succ_of_fault {k : Nat} {s : State} {r : Fault} (h : step s = .fault r) :
    run (k + 1) s = .fault r := by
  rw [run, h]

/-- A run stops at a refusal. -/
theorem run_succ_of_refused {k : Nat} {s : State} {r : Refusal} (h : step s = .refused r) :
    run (k + 1) s = .refused r := by
  rw [run, h]

/-- A run of k + 1 steps that ends in a next state has a first step that does. -/
theorem step_of_run_succ {k : Nat} {s t : State} (h : run (k + 1) s = .next t) :
    ∃ u, step s = .next u ∧ run k u = .next t := by
  rw [run] at h
  cases hs : step s with
  | next u => rw [hs] at h; exact ⟨u, rfl, h⟩
  | fault r => rw [hs] at h; cases h
  | refused r => rw [hs] at h; cases h

/-- One step and then the rest, for any machine. -/
theorem core_run_succ (M : Host.Core) (k : Nat) (s : M.State) :
    M.run (k + 1) s = match M.step s with
      | .next t => M.run k t
      | .fault r => .fault r
      | .refused r => .refused r := rfl

/-- `run` is the run of the machine the host is given. -/
theorem core_run_eq_run : ∀ (k : Nat) (s : core.State), core.run k s = run k s
  | 0, _ => rfl
  | k + 1, s => by
    refine (core_run_succ core k s).trans ?_
    cases hs : core.step s with
    | next u => exact (core_run_eq_run k u).trans (run_succ_of_step hs).symm
    | fault r => exact (run_succ_of_fault hs).symm
    | refused r => exact (run_succ_of_refused hs).symm

end Sys2Proof.Machine
end

