-- ==== Sys2Proof/Tests/Slice0.lean ====
section
/-! SUPPORT. Small tests whose expected values are the vectors of spec/95_test_vectors.md (V-...), the refusals of the
well-formedness checks, and for every statement with hypotheses a witness that meets them. -/

namespace Sys2Proof.Tests

open Sys2Proof Sys2Proof.Machine

/-! ## Helpers -/

/-- After reset, with x1 = a and x2 = b written. -/
def two (a b : Word) : State := (State.reset.writeReg 1 a).writeReg 2 b

/-- After reset, with the host about to present one event. -/
def presenting (e : HostEvent) : State := State.reset.withPending [e]

def image (b0 b1 b2 b3 b4 : Byte) : Image := #v[b0, b1, b2, b3, b4]

/-- The transaction of a command word with DIN and BIN zero. -/
def bare (w : CmdWord) : Transaction := { cmd := w, din := 0, bin := image 0 0 0 0 0 }

/-- One field of the state a command leaves. -/
def seen {α : Type} (f : State → α) : Result → Option α
  | .next t => some (f t)
  | .fault _ => none
  | .refused _ => none

/-- x3 and ST, as the arithmetic vectors give them. -/
def x3st (r : Result) : Option (Word × Word) := seen (fun t => (t.reg 3, t.st)) r

def maxInt : Word := 0x7FFFFFFFFFFFFFFF
def minInt : Word := 0x8000000000000000

/-! ## Decoding: words written out from R61 and R64, V-ENC -/

theorem test_decode_nop : decode 0b0000_000_000_000_000 = .ok .nop := rfl
theorem test_decode_ldi : decode 0b0001_011_000_000_000 = .ok (.ldi 3) := rfl
theorem test_decode_rdx : decode 0b0010_000_011_000_000 = .ok (.rdx 3) := rfl
theorem test_decode_ld5 : decode 0b0011_011_000_000_000 = .ok (.ld5 3) := rfl
theorem test_decode_st5 : decode 0b0100_000_011_000_000 = .ok (.st5 3) := rfl
theorem test_decode_add : decode 0b0101_011_001_010_000 = .ok (.add 3 1 2) := rfl
theorem test_decode_sub : decode 0b0110_111_101_100_000 = .ok (.sub 7 5 4) := rfl
theorem test_decode_mul : decode 0b0111_100_000_010_000 = .ok (.mul 4 0 2) := rfl
theorem test_decode_div : decode 0b1000_111_100_101_000 = .ok (.div 7 4 5) := rfl
theorem test_decode_wrap : decode 0b1001_011_001_000_000 = .ok (.wrap 3 1) := rfl
theorem test_decode_addw : decode 0b1010_110_100_101_000 = .ok (.addw 6 4 5) := rfl
theorem test_decode_subw : decode 0b1011_111_111_111_000 = .ok (.subw 7 7 7) := rfl
theorem test_decode_rdst : decode 0b1100_000_000_000_000 = .ok .rdst := rfl
theorem test_decode_clrst : decode 0b1101_000_000_000_000 = .ok .clrst := rfl

/-- V-ENC-2, 3, 5, 6, 8. -/
theorem test_decode_illegal_low :
    decode 0x0001 = .error .nonzeroZ ∧ decode 0x0200 = .error .nonzeroRd ∧ decode 0x1608 = .error .nonzeroRs2 ∧
    decode 0x1640 = .error .nonzeroRs1 ∧ decode 0x22C0 = .error .nonzeroRd := by
  refine ⟨?_, ?_, ?_, ?_, ?_⟩ <;> rfl

/-- V-ENC-12, 14, 15, 18, 20, 21, 22. -/
theorem test_decode_illegal_high :
    decode 0x5657 = .error .nonzeroZ ∧ decode 0x9650 = .error .nonzeroRs2 ∧ decode 0xBFFF = .error .nonzeroZ ∧
    decode 0xC040 = .error .nonzeroRs1 ∧ decode 0xE000 = .error .reservedOpcode ∧
    decode 0xF000 = .error .reservedOpcode ∧ decode 0xFFFF = .error .reservedOpcode := by
  refine ⟨?_, ?_, ?_, ?_, ?_, ?_, ?_⟩ <;> rfl

/-- Program P1's words 0xBCC0 and 0xB150, encoded. -/
theorem test_encode_subw : encode (.subw 6 3 0) = 0xBCC0 ∧ encode (.subw 0 5 2) = 0xB150 := by decide

/-! ## Raw arithmetic -/

theorem test_V_ADD_3 : x3st (exec (.add 3 1 2) (two 0xFFFFFFFFFF 1)) = some (0x10000000000, 0) := by decide
theorem test_V_ADD_6 : x3st (exec (.add 3 1 2) (two minInt (-1))) = some (maxInt, 1) := by decide
theorem test_V_SUB_6 : x3st (exec (.sub 3 1 2) (two 0 minInt)) = some (minInt, 1) := by decide
theorem test_V_SUB_7 :
    x3st (exec (.sub 3 1 2) (two 190953424 1099510579200)) = some (0xFFFFFF000B71B7D0, 0) := by decide
theorem test_V_MUL_5 : x3st (exec (.mul 3 1 2) (two 0x100000000 0x80000000)) = some (minInt, 1) := by decide
theorem test_V_MUL_8 :
    x3st (exec (.mul 3 1 2) (two 192002000 192002000)) = some (0x82F84FA99B0900, 0) := by decide
theorem test_V_DIV_2_3 :
    x3st (exec (.div 3 1 2) (two (-7) 2)) = some (-3, 0) ∧
    x3st (exec (.div 3 1 2) (two 7 (-2))) = some (-3, 0) := by decide
theorem test_V_DIV_7_11 :
    x3st (exec (.div 3 1 2) (two minInt (-1))) = some (minInt, 1) ∧
    x3st (exec (.div 3 1 2) (two maxInt (-1))) = some (0x8000000000000001, 0) := by decide

/-- V-DIV-5 and V-DIV-12: a zero divisor leaves the mark and the value of x3. -/
theorem test_V_DIV_5_12 :
    seen (fun t => (t.isWritten 3, t.st)) (exec (.div 3 1 2) (two 1 0)) = some (false, 2) ∧
    x3st (exec (.div 3 1 2) ((two 1 0).writeReg 3 99)) = some (99, 2) := by decide

/-! ## Modular reduction -/

theorem test_V_WRAP_7_10 :
    x3st (exec (.wrap 3 1) (two 0xFFFFFEFFFFFFFFFF 0)) = some (0xFFFFFFFFFF, 0) ∧
    x3st (exec (.wrap 3 1) (two 0x20000000007 0)) = some (7, 0) := by decide
theorem test_V_WRAP_13 : seen (State.reg 1) (exec (.wrap 1 1) (two 0x10000000005 0)) = some 5 := by decide
theorem test_V_ADDW_3 : x3st (exec (.addw 3 1 2) (two maxInt 1)) = some (0, 0) := by decide
theorem test_V_ADDW_5 : x3st (exec (.addw 3 1 2) (two 1099510579200 192002000)) = some (190953424, 0) := by decide
theorem test_V_SUBW_1 : x3st (exec (.subw 3 1 2) (two 0 1)) = some (0xFFFFFFFFFF, 0) := by decide
theorem test_V_SUBW_3 : x3st (exec (.subw 3 1 2) (two 190953424 1099510579200)) = some (192002000, 0) := by decide

/-! ## Transfers -/

theorem test_V_XFR_1 :
    x3st (runTransaction { bare 0x1600 with din := 0xFFFFFFFFFFFFFFFF } State.reset) = some (-1, 0) := by decide
theorem test_V_XFR_2 : seen State.dout (exec (.rdx 3) (State.reset.writeReg 3 minInt)) = some minInt := by decide
theorem test_V_XFR_4 :
    x3st (runTransaction { bare 0x3600 with bin := image 1 2 3 4 5 } State.reset) = some (0x0504030201, 0) := by decide
theorem test_V_XFR_5 :
    x3st (runTransaction { bare 0x3600 with bin := image 255 255 255 255 255 } State.reset) =
      some (0xFFFFFFFFFF, 0) := by decide
theorem test_V_XFR_6 :
    seen State.bout (exec (.st5 3) (State.reset.writeReg 3 192002000)) =
      some (image 0xD0 0xB7 0x71 0x0B 0x00) := by decide
theorem test_V_XFR_8 :
    seen State.bout (exec (.st5 3) (State.reset.writeReg 3 0x123456789ABCDEF0)) =
      some (image 0xF0 0xDE 0xBC 0x9A 0x78) := by decide

/-! ## Status, errors and the host's events -/

theorem test_nop : seen id (exec .nop (two 1 2)) = some (two 1 2) := by decide
theorem test_rdst : seen (fun t => (t.dout, t.st)) (exec .rdst (State.reset.setStBit .il)) = some (4, 4) := by decide
theorem test_clrst : seen State.st (exec .clrst ((State.reset.setStBit .il).setStBit .ov)) = some 0 := by decide

/-- V-ST-1: OV stays set. -/
theorem test_V_ST_1 : x3st (exec (.add 3 1 1) ((two 1 0).setStBit .ov)) = some (2, 1) := by decide

/-- V-ERR-1, 2 and 4: the register UnwrittenRead names, recorded; V-ERR-3: an illegal word reads none. -/
theorem test_V_ERR :
    seen State.unwrittenRead (exec (.add 3 1 2) State.reset) = some (some 1) ∧
    seen State.unwrittenRead (exec (.add 3 1 2) (State.reset.writeReg 1 0)) = some (some 2) ∧
    seen State.unwrittenRead (exec (.div 3 1 2) (State.reset.writeReg 2 0)) = some (some 1) ∧
    seen (fun t => (t.st, t.unwrittenRead)) (runWord 0x9650 State.reset) = some (4, none) := by decide

/-- Program P3, steps 9 to 11: DZ, then a reserved opcode, then a nonzero z with IL already set. -/
theorem test_P3_illegal :
    seen State.st (step ((State.reset.setStBit .dz).withPending [.issue (bare 0xE000)])) = some 6 ∧
    seen State.st (step (((State.reset.setStBit .dz).setStBit .il).withPending [.issue (bare 0x5001)])) =
      some 6 := by decide

theorem test_step_reset :
    seen (fun t => (t.st, t.isWritten 1)) (step ((two 1 2).withPending [.reset])) = some (0, false) := by decide

/-! ## The assembler notation -/

/-- Each well-formedness check refuses an ill-formed line. -/
theorem test_wf_refuses :
    Source.wf (.plain (.ldi 0)) = false ∧ Source.wf (.plain (.ld5 0)) = false ∧
    Source.wf (.ldi 0 (-9223372036854775809)) = false ∧ Source.wf (.ldi 0 18446744073709551616) = false ∧
    Source.wf (.ld5 0 [0, 0, 256, 0, 0]) = false ∧ Source.wf (.ld5 0 [0, 0, -1, 0, 0]) = false ∧
    Source.wf (.ld5 0 [0, 0, 0, 0]) = false ∧ Source.wf (.word 65536) = false ∧ Source.wf (.word (-1)) = false ∧
    Source.wf (.li 0 18446744073709551616) = false ∧ Source.wf (.ldts 0 1099511627776) = false ∧
    Source.wf (.ldts 0 (-1)) = false := by decide

theorem test_parse_subw :
    parseLine "interval x6, x3, x0 ; round1".toList = some (some (.interval 6 3 0)) ∧
    assemble (.interval 6 3 0) = some { bare 0xBCC0 with bin := imageOfList [] } := by decide

theorem test_parse_ld5 :
    parseLine "ld5 x3, [0x01, 0x02, 3, 4, 5]".toList = some (some (.ld5 3 [1, 2, 3, 4, 5])) := by decide

theorem test_parse_numbers :
    parseLine "ldi x3, -0x8000_0000_0000_0000".toList = some (some (.ldi 3 (-9223372036854775808))) ∧
    parseLine ".word 0xE000".toList = some (some (.word 0xE000)) ∧
    parseLine "add x3, x1".toList = none ∧ parseLine "add x3, x1, x8".toList = none ∧
    parseLine "  ; nothing".toList = some none := by decide

/-- Program P4, step 6: `ldts x4, 0xFFFFFFFFF0` is `ld5 x4, [F0, FF, FF, FF, FF]`. -/
theorem test_ldts :
    assemble (.ldts 4 0xFFFFFFFFF0) = some { bare 0x3800 with bin := image 0xF0 0xFF 0xFF 0xFF 0xFF } := by decide

/-! ## Witnesses: for every statement with hypotheses, inputs that meet them, clause by clause at the boundaries -/

theorem witness_EachCommandHasOneWord : decode 0xBFF8 = .ok (.subw 7 7 7) := rfl

theorem witness_StepRunsIssuedCommand :
    (presenting (.issue (bare 0x5650))).pending = [.issue (bare 0x5650)] ∧
    decode (bare 0x5650).cmd = .ok (.add 3 1 2) := ⟨rfl, rfl⟩

theorem witness_PlacedWordRuns : decodeTableWord 16 0x9640 = some (.wrap 3 1) := by decide

theorem witness_IllegalWordSetsOnlyIl :
    (presenting (.issue (bare 0xE000))).pending = [.issue (bare 0xE000)] ∧
    decode (bare 0xE000).cmd = .error .reservedOpcode := ⟨rfl, rfl⟩

theorem witness_NothingIssuedNothingChanges : State.reset.pending = [] := rfl

theorem witness_ConcurrentIssueHasNoStep :
    (presenting (.contend (bare 0) (bare 0x5650))).pending = [.contend (bare 0) (bare 0x5650)] := rfl

theorem witness_HostResetClearsStatusAndMarks : (presenting .reset).pending = [.reset] := rfl

theorem witness_NopHasNoEffect : (0x0001 : CmdWord).toNat / 4096 = 0 ∧ (0x0001 : CmdWord) ≠ 0x0000 := by decide

theorem witness_RdstReadsStatus :
    (0xCFFF : CmdWord).toNat / 4096 = 12 ∧ (0xCFFF : CmdWord) ≠ 0xC000 ∧ State.reset.statusLegal ∧
    decode 0xF000 = .error .reservedOpcode ∧
    runWord 0xF000 State.reset = .next (State.reset.setStBit .il) ∧
    exec .rdst (State.reset.setStBit .il) = .next ((State.reset.setStBit .il).driveDout 4) := by
  refine ⟨by decide, by decide, by decide, rfl, rfl, rfl⟩

theorem witness_ClrstClearsStatus : decode 0xD001 = .error .nonzeroZ := rfl

/-- In range at both ends, and one beyond each. -/
theorem witness_RawArithmeticOverflowLaw :
    (two maxInt 0).reg 1 = maxInt ∧ (two maxInt 0).reg 2 = 0 ∧
    maxInt.toInt + (0 : Word).toInt = 9223372036854775807 ∧ maxInt.toInt + (1 : Word).toInt = 9223372036854775808 ∧
    minInt.toInt - (0 : Word).toInt = -9223372036854775808 ∧
    minInt.toInt - (1 : Word).toInt = -9223372036854775809 := by decide

theorem witness_RawArithmeticFrame : x3st (exec (.add 3 1 2) (two maxInt 1)) = some (minInt, 1) := by decide

theorem witness_RawResultsCongruent :
    x3st (exec (.mul 3 1 2) (two 0x10000000000 0x10000000000)) = some (0, 1) := by decide

theorem witness_DivTruncates :
    ((two minInt (-1)).reg 2).toInt ≠ 0 ∧ ((two minInt (-1)).reg 1).toInt = -9223372036854775808 ∧
    ((two minInt (-1)).reg 2).toInt = -1 ∧ ((two minInt 1).reg 2).toInt ≠ -1 := by decide

/-- One dividend and divisor for each row of R87. -/
theorem witness_DivSignTable :
    x3st (exec (.div 3 1 2) (two 7 2)) = some (3, 0) ∧ x3st (exec (.div 3 1 2) (two (-7) 2)) = some (-3, 0) ∧
    x3st (exec (.div 3 1 2) (two 7 (-2))) = some (-3, 0) ∧ x3st (exec (.div 3 1 2) (two (-7) (-2))) = some (3, 0) ∧
    x3st (exec (.div 3 1 2) (two 0 0)) = some (0, 2) := by decide

theorem witness_DivByZeroSetsOnlyDz : (two 1 0).reg 2 = 0 := by decide

theorem witness_WrapIsLowFortyBits : (0 : Int) ≤ 1099511627775 ∧ (1099511627775 : Int) < 1099511627776 := by decide

theorem witness_AddwSubwWriteRemainder :
    x3st (exec (.subw 3 1 2) (two minInt 1)) = some (0xFFFFFFFFFF, 0) := by decide

theorem witness_FusedEqualsSequence :
    x3st (exec (.addw 3 1 2) (two maxInt 1)) = some (0, 0) ∧
    x3st (exec (.add 3 1 2) (two maxInt 1)) = some (minInt, 1) := by decide

/-- The bounds of "Identity" and "Period", and both sides of "Antisymmetry". -/
theorem witness_ModularLaws :
    (0 : Int) ≤ (0xFFFFFFFFFF : Word).toInt ∧ (0xFFFFFFFFFF : Word).toInt ≤ 1099511627775 ∧
    (0xFFFFFFFFFF : Word).toNat < 1099511627776 ∧
    subwValue 0x10000000005 5 = 0 ∧ subwValue 5 7 ≠ 0 := by decide

/-- c = 2^40 - 1 with n = 0, n = 2^40 - 1 (both give n back) and n = 2^40 (does not). -/
theorem witness_IntervalIsElapsedTime :
    ((two 0xFFFFFFFFFF 0xFFFFFFFFFF).reg 1).toInt = (1099511627775 + 0) % 1099511627776 ∧
    ((two 0xFFFFFFFFFE 0xFFFFFFFFFF).reg 1).toInt = (1099511627775 + 1099511627775) % 1099511627776 ∧
    ((two 0xFFFFFFFFFF 0xFFFFFFFFFF).reg 1).toInt = (1099511627775 + 1099511627776) % 1099511627776 ∧
    ((two 0xFFFFFFFFFF 0xFFFFFFFFFF).reg 2).toInt = 1099511627775 % 1099511627776 := by decide

theorem witness_StatusStaysLegal :
    State.statusLegal ((State.reset.setStBit .dz).withPending [.issue (bare 0xE000)]) ∧
    seen State.st (step ((State.reset.setStBit .dz).withPending [.issue (bare 0xE000)])) = some 6 := by decide

/-- Each condition at the edge of its range and just inside it: OV by ADD, SUB, MUL and DIV, then DZ, IL and CLRST. -/
theorem witness_StatusFieldRules :
    State.reset.statusLegal ∧
    seen State.st (runTransaction (bare 0x5650) (two maxInt 1)) = some 1 ∧
    seen State.st (runTransaction (bare 0x5650) (two maxInt 0)) = some 0 ∧
    seen State.st (runTransaction (bare 0x6650) (two minInt 1)) = some 1 ∧
    seen State.st (runTransaction (bare 0x7650) (two minInt (-1))) = some 1 ∧
    seen State.st (runTransaction (bare 0x8650) (two minInt (-1))) = some 1 ∧
    seen State.st (runTransaction (bare 0x8650) (two minInt 1)) = some 0 ∧
    seen State.st (runTransaction (bare 0x8650) (two 1 0)) = some 2 ∧
    seen State.st (runTransaction (bare 0xE000) State.reset) = some 4 ∧
    seen State.st (runTransaction (bare 0xD000) (State.reset.setStBit .il)) = some 0 := by decide

/-- The clauses that name a decoded word: a DIV by zero, an illegal word, and a reset event. -/
theorem witness_StatusFieldRules_words :
    decode (bare 0x8650).cmd = .ok (.div 3 1 2) ∧ (two 1 0).reg 2 = 0 ∧
    decode (bare 0xE000).cmd = .error .reservedOpcode ∧ (presenting .reset).pending = [.reset] :=
  ⟨rfl, rfl, rfl, rfl⟩

/-- A set bit kept by an illegal word and with nothing presented, and cleared by CLRST and by reset. -/
theorem witness_StatusBitsSticky :
    (State.reset.setStBit .dz).st.getLsbD 1 = true ∧
    seen State.st (step (State.reset.setStBit .dz)) = some 2 ∧
    seen State.st (step ((State.reset.setStBit .dz).withPending [.issue (bare 0xE000)])) = some 6 ∧
    seen State.st (step ((State.reset.setStBit .dz).withPending [.issue (bare 0xD000)])) = some 0 ∧
    seen State.st (step ((State.reset.setStBit .dz).withPending [.reset])) = some 0 := by decide

theorem witness_AtMostOneStatusBitSet :
    seen State.st (runTransaction (bare 0x8650) ((two 1 0).setStBit .il)) = some 6 := by decide

theorem witness_OnlySourcesRead :
    (0 : RegIdx) ∉ sources (.add 3 1 2) ∧ x3st (exec (.add 3 1 2) (two 5 7)) = some (12, 0) := by decide

theorem witness_OutputsKeptByOtherCommands :
    (∀ rs1, decode (bare 0x5650).cmd ≠ .ok (.rdx rs1)) ∧ decode (bare 0x5650).cmd ≠ .ok .rdst ∧
    (∀ rs1, decode (bare 0x5650).cmd ≠ .ok (.st5 rs1)) ∧
    x3st (runTransaction (bare 0x5650) (two 5 7)) = some (12, 0) := by
  have h : decode (bare 0x5650).cmd = .ok (.add 3 1 2) := rfl
  refine ⟨fun _ => ?_, ?_, fun _ => ?_, by decide⟩ <;> rw [h] <;> simp

/-- LDI with another BIN, and ADD with another DIN and BIN. -/
theorem witness_UnusedPortFieldsIgnored :
    ({ bare 0x1600 with bin := image 1 2 3 4 5 } : Transaction).din = (bare 0x1600).din ∧
    x3st (runTransaction (bare 0x1600) State.reset) = some (0, 0) ∧
    x3st (runTransaction { bare 0x5650 with din := 9, bin := image 1 2 3 4 5 } (two 5 7)) = some (12, 0) := by decide

theorem witness_Idempotence : (1 : RegIdx) ≠ 3 ∧ x3st (exec (.wrap 3 1) (two (-1) 0)) = some (0xFFFFFFFFFF, 0) := by
  decide

theorem witness_UnwrittenRegistersHoldReset :
    State.unwrittenHoldReset (presenting (.issue (bare 0x1600))) ∧
    seen (State.isWritten 3) (step (presenting (.issue (bare 0x1600)))) = some true := by decide

theorem witness_UnwrittenReadNeverCleared :
    State.unwrittenRead { presenting .reset with unwrittenRead := some 5 } = some 5 ∧
    seen State.unwrittenRead (step { presenting .reset with unwrittenRead := some 5 }) = some (some 5) := by decide

/-- Two machines that differ in an unwritten x0 and in DOUT, running one ADD of written registers. -/
theorem witness_UnspecifiedValuesDoNotMatter :
    SameDefined ((two 5 7).withPending [.issue (bare 0x5650)])
      { (two 5 7).withPending [.issue (bare 0x5650)] with x := (two 5 7).x.set 0 77, dout := 88 } ∧
    seen State.unwrittenRead (run 1 ((two 5 7).withPending [.issue (bare 0x5650)])) = some none := by
  refine ⟨⟨?_, ?_, ?_, ?_, ?_, ?_, ?_, ?_, ?_, ?_, ?_⟩, ?_⟩ <;> decide

/-- T of `ldts` at both ends. -/
theorem witness_PseudoInstructionsExpand :
    assemble (.ldts 0 0) = some { bare 0x3000 with bin := image 0 0 0 0 0 } ∧
    assemble (.ldts 0 1099511627775) = some { bare 0x3000 with bin := image 255 255 255 255 255 } := by decide

/-- V of `ldi` at both ends. -/
theorem witness_AssemblerAcceptsInRange :
    assemble (.ldi 3 (-9223372036854775808)) = some { bare 0x1600 with din := minInt } ∧
    assemble (.ldi 3 18446744073709551615) = some { bare 0x1600 with din := -1 } ∧
    (assemble (.ld5 3 [0, 255, 0, 255, 0])).isSome = true := by decide

end Sys2Proof.Tests
end

section
/-! The reduction `wrap40` as a residue: it ignores multiples of 2^40, fixes [0, 2^40), and on a register is the
low 40 bits, because the unsigned and the two's complement reading differ by 0 or by 2^64 = 2^24 * 2^40. -/
namespace Sys2Proof.Proofs
open Sys2Proof Sys2Proof.Machine

/-- Multiples of the modulus are invisible to the reduction (R10). -/
theorem wrap40_add_mul (v k : Int) : wrap40 (v + k * 1099511627776) = wrap40 v :=
  Int.add_mul_emod_self_right v k Config.modulus

/-- A value already in range is its own reduction (R10). -/
theorem wrap40_eq_self {v : Int} (lo : 0 ≤ v) (hi : v < 1099511627776) : wrap40 v = v :=
  Int.emod_eq_of_lt lo hi

/-- A value is its reduction plus a multiple of the modulus. -/
theorem eq_wrap40_add_mul (v : Int) : v = wrap40 v + v / 1099511627776 * 1099511627776 :=
  (Int.emod_add_ediv_mul v Config.modulus).symm

/-- The sign of a register plays no part in its reduction: the two readings differ by 0 or by 2^24 * 2^40. -/
theorem wrap40_toInt_eq_wrap40_toNat (w : Word) : wrap40 w.toInt = wrap40 w.toNat := by
  rw [BitVec.toInt_eq_toNat_cond]
  split
  case isTrue => rfl
  case isFalse =>
    have h : (w.toNat : Int) - (2 ^ 64 : Nat) = w.toNat + (-16777216) * 1099511627776 := by omega
    rw [h, wrap40_add_mul]

/-- The low 40 bits of a pattern, as an unsigned number, are the reduction of its unsigned reading. -/
theorem toNat_extractLsb'_zero_forty (w : Word) : ((w.extractLsb' 0 40).toNat : Int) = wrap40 w.toNat := by
  rw [BitVec.extractLsb'_toNat, Nat.shiftRight_zero, Int.natCast_emod]
  rfl

/-- Settles O28: R10's range, congruence, low 40 bits and the source's property. -/
theorem wrapIsLowFortyBits : Obligations.WrapIsLowFortyBits := by
  refine ⟨fun v => ?range, fun w => ?lowBits, fun t lo hi => ?property⟩
  case range =>
    obtain ⟨lo, hi⟩ := wrap40_bounds v
    exact ⟨lo, Int.le_sub_one_of_lt hi, v / 1099511627776, eq_wrap40_add_mul v⟩
  case lowBits => rw [wrap40_toInt_eq_wrap40_toNat, toNat_extractLsb'_zero_forty]
  case property =>
    calc wrap40 (t + 1099511627776)
      _ = wrap40 t := wrap40_add_mul t 1
      _ = t := wrap40_eq_self lo hi

end Sys2Proof.Proofs
end

section
/-! What a command does, in three moves: it reads its sources, computes one effect from their values, ST and the port
fields, and commits that effect. Every rule about all commands at once (10_state.md R23 to R28) is read off
this form. -/
namespace Sys2Proof.Proofs
open Sys2Proof Sys2Proof.Machine

/-! ## Reads -/

/-- The record after reading the registers `rs` in order (R155, R156; log 2), whatever their number. -/
def recordReads (rs : List RegIdx) (s : State) : State :=
  { s with unwrittenRead := s.unwrittenRead.or (firstUnwritten rs s) }

variable (s : State) (rs : List RegIdx)

@[simp] theorem recordReads_st : (recordReads rs s).st = s.st := rfl
@[simp] theorem recordReads_unwrittenRead :
    (recordReads rs s).unwrittenRead = s.unwrittenRead.or (firstUnwritten rs s) := rfl
@[simp] theorem recordReads_reg (k : RegIdx) : (recordReads rs s).reg k = s.reg k := rfl

theorem recordReads_nil : recordReads [] s = s := by
  simp [recordReads]

theorem noteRead_eq_recordReads (i : RegIdx) : s.noteRead i = recordReads [i] s :=
  congrArg (fun r => { s with unwrittenRead := r }) (noteRead_record s i)

theorem noteReads_eq_recordReads (i j : RegIdx) : s.noteReads i j = recordReads [i, j] s :=
  congrArg (fun r => { s with unwrittenRead := r }) (noteReads_unwrittenRead s i j)

/-! ## Effects -/

/-- The one change a command or an illegal word makes after its reads. -/
inductive Effect where
  | idle
  | write (rd : RegIdx) (v : Word) (ov : Bool)
  | raise (e : HwError)
  | driveDout (v : Word)
  | driveBout (b : Image)
  | clearSt

/-- Making the change, by the model's own operations. -/
def Effect.commit : Effect → State → State
  | .idle, s => s
  | .write rd v ov, s => (s.setStBitIf ov .ov).writeReg rd v
  | .raise e, s => s.raise e
  | .driveDout v, s => s.driveDout v
  | .driveBout b, s => s.driveBout b
  | .clearSt, s => s.clearSt

/-- The register an effect writes. -/
def Effect.target : Effect → Option RegIdx
  | .write rd _ _ => some rd
  | _ => none

/-- The effect of ADD, SUB or MUL with exact result `e` (R81). -/
def rawEffect (rd : RegIdx) (e : Int) : Effect := .write rd (s64 e) (overflows e)

/-- The effect of DIV of `a` by `b` (R86, R152). -/
def divEffect (rd : RegIdx) (a b : Int) : Effect :=
  if b = 0 then .raise (.divideByZero rd)
  else if a = Config.int64Min ∧ b = -1 then .write rd (s64 Config.int64Min) true
  else .write rd (s64 (truncQuotient a b)) false

/-- The effect a command computes; `exec_eq_commit` ties it to the model. -/
def effect (i : Instr) (s : State) : Effect :=
  match i with
  | .nop => .idle
  | .ldi rd => .write rd s.din false
  | .rdx rs1 => .driveDout (s.reg rs1)
  | .ld5 rd => .write rd (imageToWord s.bin) false
  | .st5 rs1 => .driveBout (wordToImage (s.reg rs1))
  | .add rd rs1 rs2 => rawEffect rd ((s.reg rs1).toInt + (s.reg rs2).toInt)
  | .sub rd rs1 rs2 => rawEffect rd ((s.reg rs1).toInt - (s.reg rs2).toInt)
  | .mul rd rs1 rs2 => rawEffect rd ((s.reg rs1).toInt * (s.reg rs2).toInt)
  | .div rd rs1 rs2 => divEffect rd (s.reg rs1).toInt (s.reg rs2).toInt
  | .wrap rd rs1 => .write rd (wrapValue (s.reg rs1)) false
  | .addw rd rs1 rs2 => .write rd (addwValue (s.reg rs1) (s.reg rs2)) false
  | .subw rd rs1 rs2 => .write rd (subwValue (s.reg rs1) (s.reg rs2)) false
  | .rdst => .driveDout s.st
  | .clrst => .clearSt

theorem divide_eq_commit (rd : RegIdx) (a b : Int) : divide rd a b s = (divEffect rd a b).commit s := by
  unfold divide divEffect
  split_ifs <;> rfl

/-- Every command answers a next state: it reads its sources and commits its effect. -/
theorem exec_eq_commit (i : Instr) :
    exec i s = .next ((effect i s).commit (recordReads (sources i) s)) := by
  cases i with
  | nop | ldi | ld5 | rdst | clrst => simp only [sources, recordReads_nil]; rfl
  | rdx | st5 | wrap => simp only [sources, ← noteRead_eq_recordReads]; rfl
  | add | sub | mul | addw | subw => simp only [sources, ← noteReads_eq_recordReads]; rfl
  | div => simp only [sources, ← noteReads_eq_recordReads, exec_div, divide_eq_commit]; rfl

/-- The state a command ends in. -/
theorem eq_commit_of_exec {i : Instr} {s t : State} (h : exec i s = .next t) :
    t = (effect i s).commit (recordReads (sources i) s) := by
  rw [exec_eq_commit] at h
  cases h
  rfl

/-! ## What an effect changes -/

section
variable (e : Effect)

@[simp] theorem commit_unwrittenRead : (e.commit s).unwrittenRead = s.unwrittenRead := by
  cases e <;> rfl

theorem commit_keeps_register {j : RegIdx} (h : e.target ≠ some j) :
    (e.commit s).reg j = s.reg j ∧ (e.commit s).isWritten j = s.isWritten j := by
  cases e with
  | write rd v ov =>
    have hj : j ≠ rd := fun hj => h (congrArg some hj.symm)
    simp [Effect.commit, hj]
  | _ => exact ⟨rfl, rfl⟩

theorem commit_marks_target {j : RegIdx} (h : e.target = some j) : (e.commit s).isWritten j = true := by
  cases e with
  | write rd v ov =>
    cases h
    simp [Effect.commit]
  | _ => cases h

theorem commit_keeps_dout (h : ∀ v, e ≠ .driveDout v) :
    (e.commit s).dout = s.dout ∧ (e.commit s).doutDriven = s.doutDriven := by
  cases e with
  | driveDout v => exact absurd rfl (h v)
  | _ => exact ⟨rfl, rfl⟩

theorem commit_keeps_bout (h : ∀ b, e ≠ .driveBout b) :
    (e.commit s).bout = s.bout ∧ (e.commit s).boutDriven = s.boutDriven := by
  cases e with
  | driveBout b => exact absurd rfl (h b)
  | _ => exact ⟨rfl, rfl⟩

/-- The frame of a register write after the reads `rs`. -/
theorem writesRegister_commit (rd : RegIdx) (v : Word) (ov : Bool) :
    WritesRegister rd rs s ((Effect.write rd v ov).commit (recordReads rs s)) where
  marked := commit_marks_target _ _ rfl
  others _ hj := commit_keeps_register _ _ fun h => hj (Option.some.inj h).symm
  outputs := ⟨rfl, rfl⟩
  driven := ⟨rfl, rfl⟩
  port := ⟨rfl, rfl, rfl⟩
  recorded := rfl

end

/-! ## Which effects a command has -/

/-- DIV with a nonzero divisor writes its destination; with a zero one it only raises its error. -/
theorem divEffect_cases (rd : RegIdx) (a b : Int) :
    (b = 0 ∧ divEffect rd a b = .raise (.divideByZero rd)) ∨
      ∃ v ov, divEffect rd a b = .write rd v ov := by
  unfold divEffect
  split_ifs with hb
  · exact .inl ⟨hb, rfl⟩
  · exact .inr ⟨_, _, rfl⟩
  · exact .inr ⟨_, _, rfl⟩

/-- A command's effect writes the register R23's table gives, but for a DIV whose divisor is zero. -/
theorem effect_target (i : Instr) :
    (effect i s).target = destination i ∨
      ((effect i s).target = none ∧ ∃ rd rs1 rs2, i = .div rd rs1 rs2 ∧ s.reg rs2 = 0) := by
  cases i with
  | div rd rs1 rs2 =>
    obtain ⟨hb, he⟩ | ⟨v, ov, he⟩ := divEffect_cases rd (s.reg rs1).toInt (s.reg rs2).toInt
    · exact .inr ⟨congrArg Effect.target he, rd, rs1, rs2, rfl, BitVec.toInt_inj.mp hb⟩
    · exact .inl (congrArg Effect.target he)
  | _ => exact .inl rfl

/-- Only RDX and RDST drive DOUT (R28). -/
theorem command_of_driveDout {i : Instr} {v : Word} (h : effect i s = .driveDout v) :
    (∃ rs1, i = .rdx rs1) ∨ i = .rdst := by
  cases i with
  | rdx rs1 => exact .inl ⟨rs1, rfl⟩
  | rdst => exact .inr rfl
  | div rd rs1 rs2 =>
    obtain ⟨-, he⟩ | ⟨_, _, he⟩ := divEffect_cases rd (s.reg rs1).toInt (s.reg rs2).toInt <;>
      cases he.symm.trans h
  | _ => cases h

/-- Only ST5 drives BOUT (R28). -/
theorem command_of_driveBout {i : Instr} {b : Image} (h : effect i s = .driveBout b) :
    ∃ rs1, i = .st5 rs1 := by
  cases i with
  | st5 rs1 => exact ⟨rs1, rfl⟩
  | div rd rs1 rs2 =>
    obtain ⟨-, he⟩ | ⟨_, _, he⟩ := divEffect_cases rd (s.reg rs1).toInt (s.reg rs2).toInt <;>
      cases he.symm.trans h
  | _ => cases h

/-- A command's effect depends on no register but its sources, and besides them on ST and the port fields only. -/
theorem effect_congr {i : Instr} {s s' : State} (hreg : ∀ r ∈ sources i, s.reg r = s'.reg r)
    (hst : s.st = s'.st) (hdin : s.din = s'.din) (hbin : s.bin = s'.bin) : effect i s = effect i s' := by
  cases i <;> simp_all [effect, sources]

end Sys2Proof.Proofs
end

section
/-! Every command's frame and record, from the effect it commits (10_state.md R23, R24, R28). -/
namespace Sys2Proof.Proofs
open Sys2Proof Sys2Proof.Machine

/-- A command leaves every register but its destination (R23). -/
theorem exec_keeps_register {i : Instr} {s t : State} (h : exec i s = .next t) {j : RegIdx}
    (hj : destination i ≠ some j) : t.reg j = s.reg j ∧ t.isWritten j = s.isWritten j := by
  cases eq_commit_of_exec h
  refine commit_keeps_register _ _ ?_
  obtain he | ⟨he, -⟩ := effect_target s i
  · rwa [he]
  · simp [he]

/-- A command marks its destination, but for a DIV by zero, which leaves it (R23, R152). -/
theorem exec_destination {i : Instr} {s t : State} (h : exec i s = .next t) {j : RegIdx}
    (hj : destination i = some j) :
    t.isWritten j = true ∨
      ∃ rs1 rs2, i = .div j rs1 rs2 ∧ s.reg rs2 = 0 ∧ t.reg j = s.reg j ∧ t.isWritten j = s.isWritten j := by
  cases eq_commit_of_exec h
  obtain he | ⟨he, rd, rs1, rs2, rfl, hz⟩ := effect_target s i
  · exact .inl (commit_marks_target _ _ (he.trans hj))
  · cases hj
    exact .inr ⟨rs1, rs2, rfl, hz, commit_keeps_register _ _ (by simp [he])⟩

/-- Settles O39: what a command commits touches its destination alone. -/
theorem onlyDestinationWritten : Obligations.OnlyDestinationWritten := fun i s =>
  ⟨_, exec_eq_commit s i, fun _ => exec_keeps_register (exec_eq_commit s i),
    fun _ => exec_destination (exec_eq_commit s i)⟩

/-- A command records the first of its sources that is unwritten (R155, R156; log 2). -/
theorem exec_record {i : Instr} {s t : State} (h : exec i s = .next t) :
    t.unwrittenRead = s.unwrittenRead.or (firstUnwritten (sources i) s) := by
  cases eq_commit_of_exec h
  simp

/-- Settles O46: the reads come before the effect, and the effect leaves the record. -/
theorem unwrittenReadRecorded : Obligations.UnwrittenReadRecorded := fun i s =>
  ⟨_, exec_eq_commit s i, exec_record (exec_eq_commit s i)⟩

/-- ADD, SUB and MUL end in a raw result of their two sources (R81). -/
theorem exec_raw_effect {rd rs1 rs2 : RegIdx} {i : Instr} (s : State)
    (hi : i = .add rd rs1 rs2 ∨ i = .sub rd rs1 rs2 ∨ i = .mul rd rs1 rs2) :
    ∃ e, exec i s = .next ((rawEffect rd e).commit (recordReads [rs1, rs2] s)) := by
  obtain rfl | rfl | rfl := hi <;> exact ⟨_, exec_eq_commit s _⟩

/-- Settles O22: a raw result writes one register and sets OV or leaves ST. -/
theorem rawArithmeticFrame : Obligations.RawArithmeticFrame := by
  intro rd rs1 rs2 s i hi
  obtain ⟨e, he⟩ := exec_raw_effect s hi
  refine ⟨_, he, writesRegister_commit .., ?_⟩
  cases h : overflows e <;> simp [rawEffect, Effect.commit, h]

/-- The value of a register that is no source changes no effect. -/
theorem effect_set_of_notMem_sources {i : Instr} {j : RegIdx} (hj : j ∉ sources i) (v : Word) (s : State) :
    effect i { s with x := s.x.set j.val v } = effect i s :=
  effect_congr (fun r hr => by
    have hrj : r ≠ j := fun h => hj (h ▸ hr)
    exact (writeReg_reg s j v r).trans (if_neg hrj)) rfl rfl rfl

/-- Settles O40: the same effect is committed, to two states that differ in that register only. -/
theorem onlySourcesRead : Obligations.OnlySourcesRead := by
  intro i s t j v hj ht
  cases eq_commit_of_exec ht
  refine ⟨_, exec_eq_commit _ i, ?_⟩
  rw [effect_set_of_notMem_sources hj]
  have hset (k : RegIdx) : State.reg k { s with x := s.x.set j.val v } = if k = j then v else s.reg k :=
    writeReg_reg s j v k
  cases effect i s with
  | write rd w ov =>
    refine ⟨fun k hk => ?_, ?_, rfl⟩
    · simp [Effect.commit, hset, hk]
    · by_cases hrd : j = rd <;> simp [Effect.commit, hset, hrd]
  | _ => exact ⟨fun k hk => (hset k).trans (if_neg hk), .inr ⟨(hset j).trans (if_pos rfl), rfl⟩, rfl⟩

end Sys2Proof.Proofs
end

section
/-! Words and host events: what an issued word and a step do, and the status register under them (10_state.md R25,
R26, R28, R32; 20_memory.md R41). -/
namespace Sys2Proof.Proofs
open Sys2Proof Sys2Proof.Machine

/-! ## Words and events -/

theorem runWord_of_ok {w : CmdWord} {i : Instr} (h : decode w = .ok i) (s : State) :
    runWord w s = exec i s := by
  simp [runWord, h]

theorem runWord_of_error {w : CmdWord} {why : Illegal} (h : decode w = .error why) (s : State) :
    runWord w s = .next (s.raise (.illegalCommand w)) := by
  simp [runWord, h, execIllegal]

theorem step_of_issue {s : State} {u : Transaction} {rest : List HostEvent} (h : s.pending = .issue u :: rest) :
    step s = runTransaction u (s.withPending rest) := by
  simp [step, h]

theorem step_of_reset {s : State} {rest : List HostEvent} (h : s.pending = .reset :: rest) :
    step s = .next (s.withPending rest).hostReset := by
  simp [step, h]

theorem runTransaction_of_ok {u : Transaction} {i : Instr} (h : decode u.cmd = .ok i) (s : State) :
    runTransaction u s = exec i (s.sample u) :=
  runWord_of_ok h (s.sample u)

theorem runTransaction_of_error {u : Transaction} {why : Illegal} (h : decode u.cmd = .error why) (s : State) :
    runTransaction u s = .next ((s.sample u).raise (.illegalCommand u.cmd)) :=
  runWord_of_error h (s.sample u)

/-- What an issued word that answers a next state has done: run its command, or raised IL. -/
theorem runTransaction_cases {u : Transaction} {s t : State} (h : runTransaction u s = .next t) :
    (∃ i, decode u.cmd = .ok i ∧ exec i (s.sample u) = .next t) ∨
      ∃ why, decode u.cmd = .error why ∧ t = (s.sample u).raise (.illegalCommand u.cmd) := by
  obtain ⟨i, hi, hr⟩ | ⟨why, hw, hr⟩ := runWord_cases u.cmd (s.sample u)
  · exact .inl ⟨i, hi, hr.symm.trans h⟩
  · exact .inr ⟨why, hw, by cases hr.symm.trans h; rfl⟩

theorem decode_of_decodeTableWord {w : Nat} {i : Instr} (h : decodeTableWord 16 w = some i) :
    decode (BitVec.ofNat 16 (w % 2 ^ 16)) = .ok i := by
  rw [decodeTableWord, if_pos le_rfl] at h
  cases hd : decode (BitVec.ofNat 16 (w % 2 ^ 16)) with
  | ok i' => rw [hd] at h; cases h; rfl
  | error why => rw [hd] at h; cases h

/-- Settles O7: the placed word is the next issue, and taking it off again leaves the state as it was. -/
theorem placedWordRuns : Obligations.PlacedWordRuns := by
  intro s w i hw
  rw [step_of_issue (withFetchWord_pending s 16 w)]
  exact runWord_of_ok (decode_of_decodeTableWord hw) s

/-- Settles O12: a reset event answers `hostReset` of the state with that event taken. -/
theorem hostResetClearsStatusAndMarks : Obligations.HostResetClearsStatusAndMarks := fun s rest h =>
  ⟨_, step_of_reset h, rfl, hostReset_isWritten (s.withPending rest), rfl, rfl, rfl, rfl, rfl, rfl⟩

/-- Settles O11, by the values R32 gives the reset state. -/
theorem resetClearsStatusAndMarks : Obligations.ResetClearsStatusAndMarks :=
  ⟨rfl, reset_isWritten⟩

/-- Settles O45: no register is marked after reset, and each holds the reset value (logs 1 and 2). -/
theorem resetMeetsInvariants : Obligations.ResetMeetsInvariants :=
  ⟨Nat.zero_le 7, fun i _ => reset_reg i, rfl⟩

/-! ## Outputs -/

/-- Settles O41: DOUT changes by a driving effect only, which RDX and RDST alone have; likewise BOUT and ST5. -/
theorem outputsKeptByOtherCommands : Obligations.OutputsKeptByOtherCommands := by
  refine ⟨fun rs1 s => ⟨_, exec_rdx rs1 s, rfl, rfl⟩, fun s => ⟨_, exec_rdst s, rfl, rfl⟩,
    fun rs1 s => ⟨_, exec_st5 rs1 s, rfl, wordToImage_getElem (s.reg rs1)⟩, fun s t u h => ?_⟩
  obtain ⟨i, hi, he⟩ | ⟨why, -, rfl⟩ := runTransaction_cases h
  case inr => exact ⟨fun _ _ => ⟨rfl, rfl⟩, fun _ => ⟨rfl, rfl⟩⟩
  cases eq_commit_of_exec he
  rw [hi]
  refine ⟨fun hrdx hrdst => commit_keeps_dout _ _ fun v hv => ?_,
    fun hst5 => commit_keeps_bout _ _ fun b hb => ?_⟩
  · obtain ⟨rs1, rfl⟩ | rfl := command_of_driveDout _ hv
    · exact hrdx rs1 rfl
    · exact hrdst rfl
  · obtain ⟨rs1, rfl⟩ := command_of_driveBout _ hb
    exact hst5 rs1 rfl

/-! ## The status register -/

/-- Setting a status bit adds that bit and no other. -/
theorem getLsbD_or_mask (v : Word) (b : StBit) (k : Nat) :
    (v ||| b.mask).getLsbD k = (v.getLsbD k || decide (k = b.pos)) := by
  have hpos : b.pos < 64 := by cases b <;> decide
  have hmask : b.mask.getLsbD k = decide (k = b.pos) := by
    rw [StBit.mask, BitVec.getLsbD_ofNat, Nat.testBit_two_pow]
    by_cases hk : k = b.pos
    · simp [hk, hpos]
    · simp [hk, Ne.symm hk]
  rw [BitVec.getLsbD_or, hmask]

/-- R25's table, bit by bit, over one issued word: what was set stays but for CLRST, and each defined bit has its own
condition to be set. -/
theorem runTransaction_st_bit {u : Transaction} {s t : State} (h : runTransaction u s = .next t) (k : Nat) :
    t.st.getLsbD k = true ↔ (s.st.getLsbD k = true ∧ decode u.cmd ≠ .ok .clrst) ∨
      (k = 0 ∧ ∃ i, decode u.cmd = .ok i ∧ RaisesOv i s) ∨
      (k = 1 ∧ ∃ i, decode u.cmd = .ok i ∧ RaisesDz i s) ∨
      (k = 2 ∧ ∃ why, decode u.cmd = .error why) := by
  obtain ⟨i, hi, he⟩ | ⟨why, hw, rfl⟩ := runTransaction_cases h
  case inr =>
    have hbit : ((s.sample u).raise (.illegalCommand u.cmd)).st.getLsbD k =
      (s.st.getLsbD k || decide (k = 2)) := getLsbD_or_mask s.st .il k
    rw [hbit]
    simp [hw]
  case inl =>
    have hov : (s.st ||| 1).getLsbD k = (s.st.getLsbD k || decide (k = 0)) := getLsbD_or_mask s.st .ov k
    have hdz : (s.st ||| 2).getLsbD k = (s.st.getLsbD k || decide (k = 1)) := getLsbD_or_mask s.st .dz k
    have hst := exec_st_cases he
    simp only [raisesOv_sample, raisesDz_sample, sample_st] at hst
    obtain ⟨rfl, ht⟩ | ⟨hc, ho, hz, ht⟩ | ⟨hc, ho, hz, ht⟩ | ⟨hc, ho, hz, ht⟩ := hst
    · simp [ht, hi]
    · rw [ht, hov]
      simp [hi, hc, ho, hz]
    · rw [ht, hdz]
      simp [hi, hc, ho, hz]
    · simp [ht, hi, hc, ho, hz]

/-- An issued word keeps ST legal (R25). -/
theorem runTransaction_keeps_statusLegal {u : Transaction} {s t : State} (h : runTransaction u s = .next t)
    (hs : s.statusLegal) : t.statusLegal := by
  obtain ⟨i, -, he⟩ | ⟨why, -, rfl⟩ := runTransaction_cases h
  case inr => exact or_mask_legal hs .il
  obtain ⟨-, ht⟩ | ⟨-, -, -, ht⟩ | ⟨-, -, -, ht⟩ | ⟨-, -, -, ht⟩ := exec_st_cases he
  · simp [State.statusLegal, ht]
  · simpa [State.statusLegal, ht] using or_mask_legal hs .ov
  · simpa [State.statusLegal, ht] using or_mask_legal hs .dz
  · simpa [State.statusLegal, ht] using hs

/-- Settles O35: a step waits, issues one word or resets, and each keeps ST at most 7. -/
theorem statusStaysLegal : Obligations.StatusStaysLegal := by
  intro s t hs h
  obtain ⟨-, rfl⟩ | ⟨u, rest, -, hu⟩ | ⟨rest, -, rfl⟩ := step_cases h
  · exact hs
  · exact runTransaction_keeps_statusLegal hu hs
  · exact Nat.zero_le 7

/-- A legal ST has no bit above bit 2 (R25). -/
theorem getLsbD_eq_false_of_legal {v : Word} (h : v.toNat ≤ 7) {k : Nat} (hk : 3 ≤ k) : v.getLsbD k = false :=
  Nat.testBit_eq_false_of_lt (calc
    v.toNat < 2 ^ 3 := by omega
    _ ≤ 2 ^ k := Nat.pow_le_pow_right (by decide) hk)

/-- A DIV by zero leaves its destination (R152). -/
theorem exec_div_zero_keeps_reg {rd rs1 rs2 : RegIdx} {s t : State} (h : exec (.div rd rs1 rs2) s = .next t)
    (hz : s.reg rs2 = 0) : t.reg rd = s.reg rd := by
  obtain ⟨-, hd⟩ | ⟨-, hb, -⟩ | ⟨hb, -⟩ :=
    divide_cases rd (s.reg rs1).toInt (s.reg rs2).toInt (s.noteReads rs1 rs2)
  · rw [exec_div, hd] at h
    cases h
    simp
  · simp [hz] at hb
  · simp [hz] at hb

/-- Settles O36: the bits of ST one by one, then the commands and events that read or clear it whole. -/
theorem statusFieldRules : Obligations.StatusFieldRules := by
  refine ⟨fun s t u h => ⟨?ov, ?dz, ?il, fun k hk => ?reserved, ?divByZero, ?illegal,
      runTransaction_keeps_statusLegal h⟩,
    fun s => ⟨_, exec_rdst s, rfl, fun hs _ => getLsbD_eq_false_of_legal hs⟩,
    fun s => ⟨_, exec_clrst s, rfl⟩, fun s rest h => ⟨_, step_of_reset h, rfl⟩, rfl⟩
  case ov => simpa using runTransaction_st_bit h 0
  case dz => simpa using runTransaction_st_bit h 1
  case il => simpa using runTransaction_st_bit h 2
  case reserved =>
    have hbits : k ≠ 0 ∧ k ≠ 1 ∧ k ≠ 2 := by omega
    simpa [hbits] using runTransaction_st_bit h k
  case divByZero =>
    intro rd rs1 rs2 hd hz
    exact exec_div_zero_keeps_reg (s := s.sample u) ((runTransaction_of_ok hd s).symm.trans h) hz
  case illegal =>
    intro why hw
    cases (runTransaction_of_error hw s).symm.trans h
    exact ⟨fun j => ⟨rfl, rfl⟩, rfl, rfl⟩

/-- Settles O37: over a step only an issued CLRST and a reset clear a bit, and they clear all. -/
theorem statusBitsSticky : Obligations.StatusBitsSticky := by
  intro s t h
  obtain ⟨hp, rfl⟩ | ⟨u, rest, hp, hu⟩ | ⟨rest, hp, rfl⟩ := step_cases h
  · simp [hp]
  · refine ⟨fun hc => ?clears, fun hc k hk => ?keeps⟩
    case clears =>
      have hcl : decode u.cmd = .ok .clrst := by simpa [hp] using hc
      cases (runTransaction_of_ok hcl _).symm.trans hu
      rfl
    case keeps =>
      have hcl : decode u.cmd ≠ .ok .clrst := by simpa [hp] using hc
      exact (runTransaction_st_bit hu k).mpr (.inl ⟨hk, hcl⟩)
  · exact ⟨fun _ => rfl, fun hc => absurd (.inr ⟨rest, hp⟩) hc⟩

end Sys2Proof.Proofs
end

section
/-! Registers not written since reset: they hold the reset value, and a run that reads none of them does not depend on
what they hold (10_state.md R24, R32; 60_exceptions.md R155). -/
namespace Sys2Proof.Proofs
open Sys2Proof Sys2Proof.Machine

/-- A command either marks a register or leaves it, value and mark (R24). -/
theorem exec_marks_or_keeps {i : Instr} {s t : State} (h : exec i s = .next t) (j : RegIdx) :
    t.isWritten j = true ∨ (t.reg j = s.reg j ∧ t.isWritten j = s.isWritten j) := by
  by_cases hj : destination i = some j
  · obtain hm | ⟨-, -, -, -, hk⟩ := exec_destination h hj
    · exact .inl hm
    · exact .inr hk
  · exact .inr (exec_keeps_register h hj)

/-- An issued word keeps unmarked registers at the reset value. -/
theorem runTransaction_keeps_unwrittenHoldReset {u : Transaction} {s t : State}
    (h : runTransaction u s = .next t) (hs : s.unwrittenHoldReset) : t.unwrittenHoldReset := by
  obtain ⟨i, -, he⟩ | ⟨why, -, rfl⟩ := runTransaction_cases h
  case inr => exact hs
  intro j hj
  obtain hm | ⟨hr, hw⟩ := exec_marks_or_keeps he j
  · simp [hm] at hj
  · exact hr.trans (hs j (hw.symm.trans hj))

/-- Settles O44: a step waits, issues one word, or resets every register with its mark. -/
theorem unwrittenRegistersHoldReset : Obligations.UnwrittenRegistersHoldReset := by
  intro s t hs h
  obtain ⟨-, rfl⟩ | ⟨u, rest, -, hu⟩ | ⟨rest, -, rfl⟩ := step_cases h
  · exact hs
  · exact runTransaction_keeps_unwrittenHoldReset hu hs
  · exact fun j _ => hostReset_reg _ j

/-! ## The record is never cleared, so an empty one was empty before -/

theorem exec_readsDefined {i : Instr} {s t : State} (h : exec i s = .next t) (ht : t.readsDefined) :
    s.readsDefined ∧ ∀ r ∈ sources i, s.isWritten r = true := by
  have hrec := exec_record h
  rw [ht, eq_comm, Option.or_eq_none_iff] at hrec
  simpa [firstUnwritten] using hrec

theorem runTransaction_readsDefined {u : Transaction} {s t : State} (h : runTransaction u s = .next t)
    (ht : t.readsDefined) : s.readsDefined := by
  obtain ⟨i, -, he⟩ | ⟨why, -, rfl⟩ := runTransaction_cases h
  · exact (exec_readsDefined he ht).1
  · exact ht

theorem step_readsDefined {s t : State} (h : step s = .next t) (ht : t.readsDefined) : s.readsDefined := by
  obtain ⟨-, rfl⟩ | ⟨u, rest, -, hu⟩ | ⟨rest, -, rfl⟩ := step_cases h
  · exact ht
  · exact runTransaction_readsDefined (s := s.withPending rest) hu ht
  · exact ht

theorem run_readsDefined : ∀ {k : Nat} {s t : State}, run k s = .next t → t.readsDefined → s.readsDefined
  | 0, _, _, h, ht => by cases h; exact ht
  | _ + 1, _, _, h, ht => by
    obtain ⟨u, hu, hk⟩ := step_of_run_succ h
    exact step_readsDefined hu (run_readsDefined hk ht)

/-! ## Every operation respects `SameDefined` -/

section
variable {s s' : State}

theorem sameDefined_sample (h : SameDefined s s') (u : Transaction) : SameDefined (s.sample u) (s'.sample u) :=
  { h with din := rfl, bin := rfl }

theorem sameDefined_withPending (h : SameDefined s s') (es : List HostEvent) :
    SameDefined (s.withPending es) (s'.withPending es) :=
  { h with pending := rfl }

/-- After a reset two states differ in nothing that reset sets. -/
theorem sameDefined_hostReset (h : SameDefined s s') : SameDefined s.hostReset s'.hostReset :=
  { h with
    written := rfl, reg := fun _ _ => rfl, st := rfl, doutDriven := rfl, dout := fun _ => rfl,
    boutDriven := rfl, bout := fun _ => rfl }

theorem isWritten_eq_of_sameDefined (h : SameDefined s s') (i : RegIdx) : s.isWritten i = s'.isWritten i :=
  congrArg (·[i.val]) h.written

theorem sameDefined_recordReads (h : SameDefined s s') (rs : List RegIdx) :
    SameDefined (recordReads rs s) (recordReads rs s') :=
  { h with
    unwrittenRead := by
      simp [firstUnwritten, h.unwrittenRead, isWritten_eq_of_sameDefined h] }

theorem sameDefined_writeReg (h : SameDefined s s') (rd : RegIdx) (v : Word) :
    SameDefined (s.writeReg rd v) (s'.writeReg rd v) :=
  { h with
    written := by simp [h.written]
    reg := fun i hi => by
      by_cases hrd : i = rd
      · simp [hrd]
      · simpa [hrd] using h.reg i (by simpa [hrd] using hi) }

/-- Making the same change leaves two states that differ in no more than before. -/
theorem sameDefined_commit (h : SameDefined s s') (e : Effect) : SameDefined (e.commit s) (e.commit s') := by
  cases e with
  | idle => exact h
  | write rd v ov =>
    exact sameDefined_writeReg (s := s.setStBitIf ov .ov) (s' := s'.setStBitIf ov .ov)
      { h with st := by simp [h.st] } rd v
  | raise e => exact { h with st := by simp [Effect.commit, h.st] }
  | driveDout v => exact { h with doutDriven := rfl, dout := fun _ => rfl }
  | driveBout b => exact { h with boutDriven := rfl, bout := fun _ => rfl }
  | clearSt => exact { h with st := rfl }

end

/-! ## Runs -/

/-- A command whose sources are written has one effect on both states, and commits it to both. -/
theorem exec_sameDefined {i : Instr} {s s' t : State} (hs : SameDefined s s') (h : exec i s = .next t)
    (ht : t.readsDefined) : ∃ t', exec i s' = .next t' ∧ SameDefined t t' := by
  obtain ⟨-, hsources⟩ := exec_readsDefined h ht
  cases eq_commit_of_exec h
  refine ⟨_, exec_eq_commit s' i, ?_⟩
  rw [← effect_congr (fun r hr => hs.reg r (hsources r hr)) hs.st hs.din hs.bin]
  exact sameDefined_commit (sameDefined_recordReads hs _) _

theorem runTransaction_sameDefined {u : Transaction} {s s' t : State} (hs : SameDefined s s')
    (h : runTransaction u s = .next t) (ht : t.readsDefined) :
    ∃ t', runTransaction u s' = .next t' ∧ SameDefined t t' := by
  have hsample := sameDefined_sample hs u
  obtain ⟨i, hi, he⟩ | ⟨why, hw, rfl⟩ := runTransaction_cases h
  · obtain ⟨t', he', ht'⟩ := exec_sameDefined hsample he ht
    exact ⟨t', (runTransaction_of_ok hi s').trans he', ht'⟩
  · exact ⟨_, runTransaction_of_error hw s', sameDefined_commit hsample (.raise (.illegalCommand u.cmd))⟩

theorem step_sameDefined {s s' t : State} (hs : SameDefined s s') (h : step s = .next t) (ht : t.readsDefined) :
    ∃ t', step s' = .next t' ∧ SameDefined t t' := by
  have hpending := hs.pending.symm
  obtain ⟨hp, rfl⟩ | ⟨u, rest, hp, hu⟩ | ⟨rest, hp, rfl⟩ := step_cases h
  · exact ⟨s', by simp [step, hpending, hp], hs⟩
  · obtain ⟨t', hu', ht'⟩ := runTransaction_sameDefined (sameDefined_withPending hs rest) hu ht
    exact ⟨t', (step_of_issue (hpending.trans hp)).trans hu', ht'⟩
  · exact ⟨_, step_of_reset (hpending.trans hp), sameDefined_hostReset (sameDefined_withPending hs rest)⟩

/-- Settles O48, by induction on the number of steps: nothing is recorded at the end, so nothing was recorded after
the first step, and the two states stay alike over it. -/
theorem unspecifiedValuesDoNotMatter : Obligations.UnspecifiedValuesDoNotMatter := by
  intro k
  induction k with
  | zero =>
    intro s s' t hs h _
    cases h
    exact ⟨s', rfl, hs⟩
  | succ k ih =>
    intro s s' t hs h ht
    obtain ⟨u, hu, hk⟩ := step_of_run_succ h
    obtain ⟨u', hu', hsame⟩ := step_sameDefined hs hu (run_readsDefined hk ht)
    obtain ⟨t', hk', ht'⟩ := ih u u' t hsame hk ht
    exact ⟨t', (run_succ_of_step hu').trans hk', ht'⟩

end Sys2Proof.Proofs
end

section
/-! Issue and completion: which port fields a command sees, when a command run twice is the same as run once, and
the steps that run no command (20_memory.md R41, R46, R47, R49, R50). -/
namespace Sys2Proof.Proofs
open Sys2Proof Sys2Proof.Machine

/-! ## Steps -/

/-- Settles O6: the step takes the event, samples its port fields and runs its word. -/
theorem stepRunsIssuedCommand : Obligations.StepRunsIssuedCommand := fun s _ rest _ hp hi =>
  (step_of_issue hp).trans (runTransaction_of_ok hi (s.withPending rest))

/-- Settles O9: with no event there is none to take. -/
theorem nothingIssuedNothingChanges : Obligations.NothingIssuedNothingChanges := by
  intro s hp
  simp [step, hp]

/-- Settles O10: the step stops at the event and runs neither word. -/
theorem concurrentIssueHasNoStep : Obligations.ConcurrentIssueHasNoStep := by
  intro s u v rest hp
  simp [step, hp]

/-! ## What a command sees, and the port fields it carries along -/

/-- `effect_congr` for what each command uses: only RDST sees ST, only LDI sees DIN, only LD5 sees BIN (R41). -/
theorem effect_congr_of_used {i : Instr} {s s' : State} (hreg : ∀ r ∈ sources i, s.reg r = s'.reg r)
    (hst : i = .rdst → s.st = s'.st) (hdin : (∃ rd, i = .ldi rd) → s.din = s'.din)
    (hbin : (∃ rd, i = .ld5 rd) → s.bin = s'.bin) : effect i s = effect i s' := by
  cases i with
  | ldi rd => simp [effect, hdin ⟨rd, rfl⟩]
  | ld5 rd => simp [effect, hbin ⟨rd, rfl⟩]
  | rdst => simp [effect, hst rfl]
  | _ => simp_all [effect, sources]

/-- Reading and committing carry the sampled port fields along and use neither. -/
theorem commit_recordReads_sample (e : Effect) (rs : List RegIdx) (s : State) (u : Transaction) :
    e.commit (recordReads rs (s.sample u)) = (e.commit (recordReads rs s)).sample u := by
  cases e <;> rfl

theorem sample_sample (s : State) (u v : Transaction) : (s.sample u).sample v = s.sample v := rfl

/-- Settles O42: both transactions commit one effect, since they agree in the field the command uses; an illegal word
uses none. -/
theorem unusedPortFieldsIgnored : Obligations.UnusedPortFieldsIgnored := by
  intro s t u v hcmd hdin hbin h
  change _ = Host.Outcome.next (t.sample v)
  obtain ⟨i, hi, he⟩ | ⟨why, hw, rfl⟩ := runTransaction_cases h
  case inr => rw [runTransaction_of_error (hcmd ▸ hw), hcmd]; rfl
  have heffect : effect i (s.sample v) = effect i (s.sample u) :=
    effect_congr_of_used (fun _ _ => rfl) (fun _ => rfl)
      (fun ⟨rd, hrd⟩ => hdin ⟨rd, hrd ▸ hi⟩) (fun ⟨rd, hrd⟩ => hbin ⟨rd, hrd ▸ hi⟩)
  cases eq_commit_of_exec he
  rw [runTransaction_of_ok (hcmd ▸ hi), exec_eq_commit, heffect, commit_recordReads_sample,
    commit_recordReads_sample, sample_sample]

/-! ## Idempotence (R46) -/

/-- Making one change twice is making it once. -/
theorem commit_commit (e : Effect) (s : State) : e.commit (e.commit s) = e.commit s := by
  cases e with
  | write rd v ov =>
    cases ov <;> simp [Effect.commit, State.writeReg, State.setStBitIf, BitVec.or_assoc]
  | raise e => simp [Effect.commit, State.raise, State.setStBit, BitVec.or_assoc]
  | _ => rfl

theorem firstUnwritten_congr {rs : List RegIdx} {s s' : State} (h : ∀ r ∈ rs, s.isWritten r = s'.isWritten r) :
    firstUnwritten rs s = firstUnwritten rs s' :=
  List.find?_congr fun r hr => by rw [h r hr]

/-- A command that marks none of its sources leaves nothing for a second reading of them to record. -/
theorem recordReads_eq_self_of_exec {i : Instr} {s t : State} (h : exec i s = .next t)
    (hsrc : ∀ r ∈ sources i, destination i ≠ some r) : recordReads (sources i) t = t := by
  have hfirst : firstUnwritten (sources i) t = firstUnwritten (sources i) s :=
    firstUnwritten_congr fun r hr => (exec_keeps_register h (hsrc r hr)).2
  have hrecord : t.unwrittenRead.or (firstUnwritten (sources i) t) = t.unwrittenRead := by
    rw [hfirst, exec_record h, Option.or_assoc, Option.or_self]
  simp [recordReads, hrecord]

theorem commit_port (e : Effect) (s : State) : (e.commit s).din = s.din ∧ (e.commit s).bin = s.bin := by
  cases e <;> exact ⟨rfl, rfl⟩

/-- A command that writes none of its sources computes the same effect again: RDST sees ST, and leaves it. -/
theorem effect_eq_of_exec {i : Instr} {s t : State} (h : exec i s = .next t)
    (hsrc : ∀ r ∈ sources i, destination i ≠ some r) : effect i t = effect i s := by
  have hreg : ∀ r ∈ sources i, t.reg r = s.reg r := fun r hr => (exec_keeps_register h (hsrc r hr)).1
  have hst : i = .rdst → t.st = s.st := by
    rintro rfl
    cases h
    rfl
  cases eq_commit_of_exec h
  obtain ⟨hdin, hbin⟩ := commit_port (effect i s) (recordReads (sources i) s)
  exact effect_congr_of_used hreg hst (fun _ => hdin) (fun _ => hbin)

/-- A command whose destination is none of its sources does the same run twice as run once. -/
theorem exec_idempotent {i : Instr} {s t : State} (h : exec i s = .next t)
    (hsrc : ∀ r ∈ sources i, destination i ≠ some r) : exec i t = .next t := by
  rw [exec_eq_commit, recordReads_eq_self_of_exec h hsrc, effect_eq_of_exec h hsrc,
    eq_commit_of_exec h, commit_commit]

/-- After reset with x1 = 8 and x2 = 3: the operands on which six commands with rd = rs1 show they are not idempotent. -/
def eightAndThree : State := (State.reset.writeReg 1 8).writeReg 2 3

/-- Settles O43: the idempotent commands write none of their sources; on 8 and 3 each of the other six, run in place
twice, gives a second value. -/
theorem idempotence : Obligations.Idempotence := by
  refine ⟨fun s i hi => ?reads, fun s i hi => ⟨_, exec_eq_commit s i, exec_idempotent (exec_eq_commit s i) ?sources⟩,
    fun mk hmk => ⟨eightAndThree, _, _, exec_eq_commit _ _, exec_eq_commit _ _, ?differs⟩⟩
  case reads =>
    obtain rfl | ⟨r, rfl | rfl⟩ := hi
    · exact ⟨_, exec_rdst s, rfl, fun _ => rfl, nofun, fun _ => rfl⟩
    · exact ⟨_, exec_rdx r s, rfl, fun _ => rfl, nofun, fun _ => rfl⟩
    · exact ⟨_, exec_st5 r s, rfl, fun _ => rfl, fun _ => rfl, fun h => absurd rfl (h r)⟩
  case sources =>
    obtain rfl | rfl | rfl | ⟨r, rfl | rfl | rfl | rfl | ⟨r', hr, rfl⟩⟩ := hi
    pick_goal 8
    · simpa [sources, destination] using hr.symm
    all_goals simp [sources, destination]
  case differs =>
    revert mk
    decide

end Sys2Proof.Proofs
end

section
/-! The decoder and the encoder by fields (30_encoding.md R61 to R67). A word is its five fields; R65's checks ask two
things of them, an opcode that has a mnemonic and zeros in z and in the register fields that the class does not use; and
the encoder's words are those that pass. -/
namespace Sys2Proof.Proofs
open Sys2Proof Sys2Proof.Machine

/-! ## Fields as numbers (R61) -/

theorem opField_toNat (w : CmdWord) : (opField w).toNat = w.toNat / 4096 := by
  rw [opField, BitVec.extractLsb'_toNat, Nat.shiftRight_eq_div_pow]
  omega

theorem rdField_toNat (w : CmdWord) : (rdField w).toNat = w.toNat / 512 % 8 := by
  rw [rdField, BitVec.extractLsb'_toNat, Nat.shiftRight_eq_div_pow]

theorem rs1Field_toNat (w : CmdWord) : (rs1Field w).toNat = w.toNat / 64 % 8 := by
  rw [rs1Field, BitVec.extractLsb'_toNat, Nat.shiftRight_eq_div_pow]

theorem rs2Field_toNat (w : CmdWord) : (rs2Field w).toNat = w.toNat / 8 % 8 := by
  rw [rs2Field, BitVec.extractLsb'_toNat, Nat.shiftRight_eq_div_pow]

theorem zField_toNat (w : CmdWord) : (zField w).toNat = w.toNat % 8 := by
  rw [zField, BitVec.extractLsb'_toNat, Nat.shiftRight_zero]

/-- A word is its five fields: they are all of its 16 bits (R61). -/
theorem eq_of_fields {v w : CmdWord} (hop : opField v = opField w) (hrd : rdField v = rdField w)
    (hrs1 : rs1Field v = rs1Field w) (hrs2 : rs2Field v = rs2Field w) (hz : zField v = zField w) : v = w := by
  simp only [← BitVec.toNat_inj, opField_toNat, rdField_toNat, rs1Field_toNat, rs2Field_toNat,
    zField_toNat] at hop hrd hrs1 hrs2 hz ⊢
  omega

/-! ## What the packed fields read back as (R61, R62) -/

section Pack
variable (op : Nat) (rd rs1 rs2 : RegIdx)

theorem pack_toNat : (pack op rd rs1 rs2).toNat =
    (op * 4096 + rd.val * 512 + rs1.val * 64 + rs2.val * 8) % 65536 :=
  BitVec.toNat_ofNat ..

theorem opField_pack : opField (pack op rd rs1 rs2) = BitVec.ofNat 4 op := by
  apply BitVec.eq_of_toNat_eq
  rw [opField_toNat, pack_toNat, BitVec.toNat_ofNat]
  omega

theorem rdField_pack : rdField (pack op rd rs1 rs2) = BitVec.ofFin rd := by
  apply BitVec.eq_of_toNat_eq
  rw [rdField_toNat, pack_toNat, BitVec.toNat_ofFin]
  omega

theorem rs1Field_pack : rs1Field (pack op rd rs1 rs2) = BitVec.ofFin rs1 := by
  apply BitVec.eq_of_toNat_eq
  rw [rs1Field_toNat, pack_toNat, BitVec.toNat_ofFin]
  omega

theorem rs2Field_pack : rs2Field (pack op rd rs1 rs2) = BitVec.ofFin rs2 := by
  apply BitVec.eq_of_toNat_eq
  rw [rs2Field_toNat, pack_toNat, BitVec.toNat_ofFin]
  omega

theorem zField_pack : zField (pack op rd rs1 rs2) = 0 := by
  apply BitVec.eq_of_toNat_eq
  rw [zField_toNat, pack_toNat, BitVec.ofNat_eq_ofNat, BitVec.toNat_zero]
  omega

end Pack

/-! ## The decoder's checks (R65) -/

/-- The command R65 makes of a word's register fields under a mnemonic. -/
def commandOf (m : Mnemonic) (w : CmdWord) : Instr :=
  command m (regOfField (rdField w)) (regOfField (rs1Field w)) (regOfField (rs2Field w))

/-- R65's checks after the opcode's: z is zero, and so is every register field the mnemonic's class does not use. -/
structure FieldsFit (m : Mnemonic) (w : CmdWord) : Prop where
  z : zField w = 0
  rd : m.operandClass.usesRd = false → rdField w = 0
  rs1 : m.operandClass.usesRs1 = false → rs1Field w = 0
  rs2 : m.operandClass.usesRs2 = false → rs2Field w = 0

/-- A word that passes the checks decodes. -/
theorem decode_of_fieldsFit {w : CmdWord} {m : Mnemonic} (hm : mnemonicOf (opField w) = some m)
    (hw : FieldsFit m w) : decode w = .ok (commandOf m w) := by
  obtain ⟨hz, hrd, hrs1, hrs2⟩ := hw
  simp only [decode, hm]
  rw [if_neg (not_not_intro hz), if_neg fun h => h.1 (hrd h.2), if_neg fun h => h.1 (hrs1 h.2),
    if_neg fun h => h.1 (hrs2 h.2), commandOf]

/-- A word that decodes has passed the checks. -/
theorem fieldsFit_of_decode {w : CmdWord} {i : Instr} (h : decode w = .ok i) :
    ∃ m, mnemonicOf (opField w) = some m ∧ FieldsFit m w ∧ commandOf m w = i := by
  cases hm : mnemonicOf (opField w) with
  | none => simp [decode, hm] at h
  | some m =>
    simp only [decode, hm] at h
    split_ifs at h with hz hrd hrs1 hrs2
    have hw : FieldsFit m w :=
      { z := not_not.mp hz
        rd := fun hu => by_contra fun hne => hrd ⟨hne, hu⟩
        rs1 := fun hu => by_contra fun hne => hrs1 ⟨hne, hu⟩
        rs2 := fun hu => by_contra fun hne => hrs2 ⟨hne, hu⟩ }
    exact ⟨m, rfl, hw, Except.ok.inj h⟩

/-! ## The encoder by fields (R63, R64) -/

section Encode
variable (m : Mnemonic) (rd rs1 rs2 : RegIdx)

theorem exists_command (i : Instr) : ∃ m rd rs1 rs2, command m rd rs1 rs2 = i := by
  cases i with
  | nop => exact ⟨.nop, 0, 0, 0, rfl⟩
  | ldi rd => exact ⟨.ldi, rd, 0, 0, rfl⟩
  | rdx rs1 => exact ⟨.rdx, 0, rs1, 0, rfl⟩
  | ld5 rd => exact ⟨.ld5, rd, 0, 0, rfl⟩
  | st5 rs1 => exact ⟨.st5, 0, rs1, 0, rfl⟩
  | add rd rs1 rs2 => exact ⟨.add, rd, rs1, rs2, rfl⟩
  | sub rd rs1 rs2 => exact ⟨.sub, rd, rs1, rs2, rfl⟩
  | mul rd rs1 rs2 => exact ⟨.mul, rd, rs1, rs2, rfl⟩
  | div rd rs1 rs2 => exact ⟨.div, rd, rs1, rs2, rfl⟩
  | wrap rd rs1 => exact ⟨.wrap, rd, rs1, 0, rfl⟩
  | addw rd rs1 rs2 => exact ⟨.addw, rd, rs1, rs2, rfl⟩
  | subw rd rs1 rs2 => exact ⟨.subw, rd, rs1, rs2, rfl⟩
  | rdst => exact ⟨.rdst, 0, 0, 0, rfl⟩
  | clrst => exact ⟨.clrst, 0, 0, 0, rfl⟩

/-- The encoder's opcode is the mnemonic's own (R64). -/
theorem mnemonicOf_opField_encode : mnemonicOf (opField (encode (command m rd rs1 rs2))) = some m := by
  cases m <;> exact congrArg mnemonicOf (opField_pack ..)

theorem rdField_encode : rdField (encode (command m rd rs1 rs2)) =
    if m.operandClass.usesRd then BitVec.ofFin rd else 0 := by
  cases m <;> exact rdField_pack ..

theorem rs1Field_encode : rs1Field (encode (command m rd rs1 rs2)) =
    if m.operandClass.usesRs1 then BitVec.ofFin rs1 else 0 := by
  cases m <;> exact rs1Field_pack ..

theorem rs2Field_encode : rs2Field (encode (command m rd rs1 rs2)) =
    if m.operandClass.usesRs2 then BitVec.ofFin rs2 else 0 := by
  cases m <;> exact rs2Field_pack ..

theorem zField_encode : zField (encode (command m rd rs1 rs2)) = 0 := by
  cases m <;> exact zField_pack ..

/-- The encoder sets unused fields to zero (R63). -/
theorem fieldsFit_encode : FieldsFit m (encode (command m rd rs1 rs2)) where
  z := zField_encode ..
  rd h := by simp [rdField_encode, h]
  rs1 h := by simp [rs1Field_encode, h]
  rs2 h := by simp [rs2Field_encode, h]

/-- A command is read back from its word: the fields its class uses are there, and it holds no other. -/
theorem commandOf_encode : commandOf m (encode (command m rd rs1 rs2)) = command m rd rs1 rs2 := by
  rw [commandOf, rdField_encode, rs1Field_encode, rs2Field_encode]
  cases m <;> rfl

end Encode

/-- The encoder's word passes R65's checks, and its fields are the command's. -/
theorem decode_encode (i : Instr) : decode (encode i) = .ok i := by
  obtain ⟨m, rd, rs1, rs2, rfl⟩ := exists_command i
  rw [decode_of_fieldsFit (mnemonicOf_opField_encode ..) (fieldsFit_encode ..), commandOf_encode]

/-- Settles O2: every command is `command` of a mnemonic and fields, and those are read back from its word. -/
theorem decodeEncodeRoundTrip : Obligations.DecodeEncodeRoundTrip :=
  decode_encode

/-! ## A word from its command (R65, R67) -/

/-- No two opcodes have the same mnemonic (R64). -/
theorem mnemonicOf_injective {op op' : BitVec 4} {m : Mnemonic} (h : mnemonicOf op = some m)
    (h' : mnemonicOf op' = some m) : op = op' := by
  have distinct : ∀ a b : BitVec 4, mnemonicOf a ≠ none → mnemonicOf a = mnemonicOf b → a = b := by decide
  exact distinct op op' (by simp [h]) (h.trans h'.symm)

/-- A register field that is zero where it is unused is what the encoder puts there. -/
theorem field_eq_of_unused {used : Bool} {f : BitVec 3} (h : used = false → f = 0) :
    (if used then BitVec.ofFin (regOfField f) else 0) = f := by
  cases used with
  | false => exact (h rfl).symm
  | true => rfl

/-- Encoding what a word that passes the checks decodes to gives the word back, field by field. -/
theorem encode_commandOf {w : CmdWord} {m : Mnemonic} (hm : mnemonicOf (opField w) = some m)
    (hw : FieldsFit m w) : encode (commandOf m w) = w :=
  eq_of_fields (mnemonicOf_injective (mnemonicOf_opField_encode ..) hm)
    ((rdField_encode ..).trans (field_eq_of_unused hw.rd))
    ((rs1Field_encode ..).trans (field_eq_of_unused hw.rs1))
    ((rs2Field_encode ..).trans (field_eq_of_unused hw.rs2))
    ((zField_encode ..).trans hw.z.symm)

/-- Settles O3: the word passes R65's checks, so it has the fields of the command's own word. -/
theorem eachCommandHasOneWord : Obligations.EachCommandHasOneWord := by
  intro w i h
  obtain ⟨m, hm, hw, rfl⟩ := fieldsFit_of_decode h
  exact encode_commandOf hm hw

/-! ## Illegal words (R66) -/

/-- A word is illegal exactly when no mnemonic passes its checks. -/
theorem decode_error_iff (w : CmdWord) :
    (∃ why, decode w = .error why) ↔ ∀ m, mnemonicOf (opField w) = some m → ¬FieldsFit m w := by
  constructor
  · rintro ⟨why, h⟩ m hm hw
    cases h.symm.trans (decode_of_fieldsFit hm hw)
  · intro h
    cases hd : decode w with
    | error why => exact ⟨why, rfl⟩
    | ok i =>
      obtain ⟨m, hm, hw, -⟩ := fieldsFit_of_decode hd
      exact absurd hw (h m hm)

/-! ## The match and mask table (R64) -/

/-- The command's own word is selected by its own row and by no other. -/
theorem ownRow (i : Instr) : Laws.OwnRow.Statement i := by
  cases i with
  | nop => exact Laws.OwnRow.nop
  | ldi rd => exact Laws.OwnRow.ldi rd
  | rdx rs1 => exact Laws.OwnRow.rdx rs1
  | ld5 rd => exact Laws.OwnRow.ld5 rd
  | st5 rs1 => exact Laws.OwnRow.st5 rs1
  | add rd rs1 rs2 => exact Laws.OwnRow.add rd rs1 rs2
  | sub rd rs1 rs2 => exact Laws.OwnRow.sub rd rs1 rs2
  | mul rd rs1 rs2 => exact Laws.OwnRow.mul rd rs1 rs2
  | div rd rs1 rs2 => exact Laws.OwnRow.div rd rs1 rs2
  | wrap rd rs1 => exact Laws.OwnRow.wrap rd rs1
  | addw rd rs1 rs2 => exact Laws.OwnRow.addw rd rs1 rs2
  | subw rd rs1 rs2 => exact Laws.OwnRow.subw rd rs1 rs2
  | rdst => exact Laws.OwnRow.rdst
  | clrst => exact Laws.OwnRow.clrst

/-- What a row's pattern and mask hold, field by field: the mask covers op, z and the unused register fields, and the
pattern is the mnemonic's opcode with zeros below it. -/
structure RowFields (r : TableRow) : Prop where
  opMask : opField r.mask = BitVec.allOnes 4
  zMask : zField r.mask = BitVec.allOnes 3
  rdMask : r.mnemonic.operandClass.usesRd = false → rdField r.mask = BitVec.allOnes 3
  rs1Mask : r.mnemonic.operandClass.usesRs1 = false → rs1Field r.mask = BitVec.allOnes 3
  rs2Mask : r.mnemonic.operandClass.usesRs2 = false → rs2Field r.mask = BitVec.allOnes 3
  op : mnemonicOf (opField r.pattern) = some r.mnemonic
  z : zField r.pattern = 0
  rd : rdField r.pattern = 0
  rs1 : rs1Field r.pattern = 0
  rs2 : rs2Field r.pattern = 0

theorem rowFields_of_mem : ∀ r ∈ opcodeTable, RowFields r := by
  simp only [opcodeTable, List.forall_mem_cons, List.not_mem_nil, false_imp_iff, implies_true, and_true]
  and_intros <;> constructor <;> decide

/-- Bits under an all-ones mask are the word's own. -/
theorem extractLsb'_eq_of_and_eq {w mask pattern : CmdWord} (h : w &&& mask = pattern) {start len : Nat}
    (hmask : mask.extractLsb' start len = BitVec.allOnes len) :
    w.extractLsb' start len = pattern.extractLsb' start len := by
  rw [← h, BitVec.extractLsb'_and, hmask, BitVec.and_allOnes]

/-- The row that selects a word names its mnemonic, and the word passes the checks. -/
theorem fieldsFit_of_selects {r : TableRow} {w : CmdWord} (hr : RowFields r) (h : r.selects w = true) :
    mnemonicOf (opField w) = some r.mnemonic ∧ FieldsFit r.mnemonic w := by
  have hand : w &&& r.mask = r.pattern := eq_of_beq h
  refine ⟨(congrArg mnemonicOf (extractLsb'_eq_of_and_eq hand hr.opMask)).trans hr.op, ?_⟩
  exact
    { z := (extractLsb'_eq_of_and_eq hand hr.zMask).trans hr.z
      rd := fun hu => (extractLsb'_eq_of_and_eq hand (hr.rdMask hu)).trans hr.rd
      rs1 := fun hu => (extractLsb'_eq_of_and_eq hand (hr.rs1Mask hu)).trans hr.rs1
      rs2 := fun hu => (extractLsb'_eq_of_and_eq hand (hr.rs2Mask hu)).trans hr.rs2 }

/-- A word that decodes is selected by its mnemonic's row alone: it is the command's own word. -/
theorem rows_of_decode {w : CmdWord} {i : Instr} (h : decode w = .ok i) :
    (opcodeTable.filter fun r => r.selects w).map TableRow.mnemonic = [i.mnemonic] := by
  rw [← eachCommandHasOneWord w i h]
  exact ownRow i

/-- Settles O4: a legal word is its command's own word, and a word that a row selects passes R65's checks. -/
theorem tableSelectsWhatDecodes : Obligations.TableSelectsWhatDecodes := by
  refine fun w => ⟨fun i => rows_of_decode, fun herr r hr => ?unselected, fun hnone => ?illegal⟩
  case unselected =>
    rw [Bool.eq_false_iff]
    intro hsel
    obtain ⟨hm, hw⟩ := fieldsFit_of_selects (rowFields_of_mem r hr) hsel
    exact (decode_error_iff w).mp herr r.mnemonic hm hw
  case illegal =>
    cases hd : decode w with
    | error why => exact ⟨why, rfl⟩
    | ok i =>
      have hempty : opcodeTable.filter (fun r => r.selects w) = [] := by simpa using hnone
      simpa [hempty] using rows_of_decode hd

/-! ## The opcodes of each class (R63, R64) -/

theorem mnemonicOf_eq_none_iff : ∀ op : BitVec 4, mnemonicOf op = none ↔ op.toNat = 14 ∨ op.toNat = 15 := by
  decide

theorem unusedRd_iff : ∀ op : BitVec 4, (mnemonicOf op).any (fun m => !m.operandClass.usesRd) = true ↔
    (op.toNat = 0 ∨ op.toNat = 12 ∨ op.toNat = 13) ∨ op.toNat = 2 ∨ op.toNat = 4 := by
  decide

theorem unusedRs1_iff : ∀ op : BitVec 4, (mnemonicOf op).any (fun m => !m.operandClass.usesRs1) = true ↔
    (op.toNat = 0 ∨ op.toNat = 12 ∨ op.toNat = 13) ∨ op.toNat = 1 ∨ op.toNat = 3 := by
  decide

theorem unusedRs2_iff : ∀ op : BitVec 4, (mnemonicOf op).any (fun m => !m.operandClass.usesRs2) = true ↔
    (op.toNat = 0 ∨ op.toNat = 12 ∨ op.toNat = 13) ∨ (op.toNat = 1 ∨ op.toNat = 3) ∨
      (op.toNat = 2 ∨ op.toNat = 4) ∨ op.toNat = 9 := by
  decide

theorem not_fieldsFit_iff (m : Mnemonic) (w : CmdWord) : ¬FieldsFit m w ↔
    zField w ≠ 0 ∨ (m.operandClass.usesRd = false ∧ rdField w ≠ 0) ∨
      (m.operandClass.usesRs1 = false ∧ rs1Field w ≠ 0) ∨ (m.operandClass.usesRs2 = false ∧ rs2Field w ≠ 0) := by
  have fieldsFit_iff : FieldsFit m w ↔ zField w = 0 ∧ (m.operandClass.usesRd = false → rdField w = 0) ∧
      (m.operandClass.usesRs1 = false → rs1Field w = 0) ∧ (m.operandClass.usesRs2 = false → rs2Field w = 0) :=
    ⟨fun ⟨hz, hrd, hrs1, hrs2⟩ => ⟨hz, hrd, hrs1, hrs2⟩, fun ⟨hz, hrd, hrs1, hrs2⟩ => ⟨hz, hrd, hrs1, hrs2⟩⟩
  simp only [fieldsFit_iff, not_and_or, Classical.not_imp, ne_eq]

/-- The reasons of R66, each as a condition on the opcode and one field. -/
theorem decode_error_iff_fields (w : CmdWord) :
    (∃ why, decode w = .error why) ↔
      mnemonicOf (opField w) = none ∨ zField w ≠ 0 ∨
      ((mnemonicOf (opField w)).any (fun m => !m.operandClass.usesRd) = true ∧ rdField w ≠ 0) ∨
      ((mnemonicOf (opField w)).any (fun m => !m.operandClass.usesRs1) = true ∧ rs1Field w ≠ 0) ∨
      ((mnemonicOf (opField w)).any (fun m => !m.operandClass.usesRs2) = true ∧ rs2Field w ≠ 0) := by
  rw [decode_error_iff]
  cases mnemonicOf (opField w) with
  | none => simp
  | some m => simp [not_fieldsFit_iff]

/-- Settles O5: each reason of R66 with the opcodes that have it, the fields read as numbers. What is left is to regroup:
the lemmas list the opcodes of each field, the statement the fields of each class. -/
theorem illegalWordsAreThese : Obligations.IllegalWordsAreThese := by
  intro w
  simp only [decode_error_iff_fields, mnemonicOf_eq_none_iff, unusedRd_iff, unusedRs1_iff, unusedRs2_iff, ne_eq,
    BitVec.ofNat_eq_ofNat, ← BitVec.toNat_inj, BitVec.toNat_zero, opField_toNat, rdField_toNat, rs1Field_toNat,
    rs2Field_toNat, zField_toNat]
  grind

/-! ## Single words -/

/-- Settles O1: each word is computed with R65's checks. -/
theorem specWordsDecode : Obligations.SpecWordsDecode := by
  and_intros <;> rfl

end Sys2Proof.Proofs
end

section
/-! The assembler's lines (30_encoding.md R68, R69): which it accepts, and what the accepted LDI and LD5 lines load. -/
namespace Sys2Proof.Proofs
open Sys2Proof Sys2Proof.Machine

/-! ## Accepted lines -/

/-- A line the assembler accepts becomes its expansion's transaction. -/
theorem assemble_of_wf {l : Source} (h : l.wf = true) : assemble l = coreTransaction (expand l) :=
  (assemble_eq l).trans (if_pos h)

/-- The assembler answers for exactly the well-formed lines: every expansion has a transaction. -/
theorem assemble_some_iff (l : Source) : (∃ u, assemble l = some u) ↔ l.wf = true := by
  constructor
  · rintro ⟨u, hu⟩
    by_contra h
    simp [assemble_eq, h] at hu
  · intro h
    rw [assemble_of_wf h]
    cases l <;> exact ⟨_, rfl⟩

/-! ## What an LDI and an LD5 transaction load -/

/-- A transaction with a command's own word runs that command. -/
theorem runTransaction_encode (i : Instr) (v : Word) (b : Image) (s : State) :
    runTransaction ⟨encode i, v, b⟩ s = exec i (s.sample ⟨encode i, v, b⟩) :=
  runTransaction_of_ok (u := ⟨encode i, v, b⟩) (decode_encode i) s

theorem runTransaction_ldi (rd : RegIdx) (v : Word) (b : Image) (s : State) :
    ∃ t, runTransaction ⟨encode (.ldi rd), v, b⟩ s = .next t ∧ t.reg rd = v := by
  rw [runTransaction_encode, exec_ldi]
  exact ⟨_, rfl, by simp⟩

theorem runTransaction_ld5 (rd : RegIdx) (v : Word) (b : Image) (s : State) :
    ∃ t, runTransaction ⟨encode (.ld5 rd), v, b⟩ s = .next t ∧ t.reg rd = imageToWord b := by
  rw [runTransaction_encode, exec_ld5]
  exact ⟨_, rfl, by simp⟩

/-- A pattern reads back as the integer it was made from, but for a multiple of 2^64 (R9). -/
theorem s64_toInt_congruent (v : Int) : ∃ k : Int, (s64 v).toInt = v + k * 18446744073709551616 := by
  rw [s64_toInt]
  split
  · exact ⟨-(v / 18446744073709551616) - 1, by omega⟩
  · exact ⟨-(v / 18446744073709551616), by omega⟩

/-! ## The image of a timestamp (R69) -/

/-- The five bytes `ldts` splits T into are bytes. -/
theorem imageOfInt_bytes (t : Int) : ∀ b ∈ imageOfInt t, 0 ≤ b ∧ b < 256 := by
  have byte (n : Int) : 0 ≤ n % 256 ∧ n % 256 < 256 :=
    ⟨Int.emod_nonneg n (by decide), Int.emod_lt_of_pos n (by decide)⟩
  simp [imageOfInt, byte]

/-- Byte k of an LD5 line's image is its k-th integer (R68). -/
theorem imageOfList_getElem (bs : List Int) (k : Nat) (hk : k < 5) :
    (imageOfList bs)[k] = BitVec.ofInt 8 (bs.getD k 0) := by
  simp [imageOfList]

theorem toNat_ofInt_emod_256 (n : Int) : ((BitVec.ofInt 8 (n % 256)).toNat : Int) = n % 256 := by
  rw [BitVec.toNat_ofInt]
  omega

/-- Splitting T little-endian and joining the bytes again gives T (R42, R69). -/
theorem imageToWord_imageOfInt {t : Int} (lo : 0 ≤ t) (hi : t < 1099511627776) :
    (imageToWord (imageOfList (imageOfInt t))).toInt = t := by
  have hnat : ((imageToWord (imageOfList (imageOfInt t))).toNat : Int) = t := by
    rw [imageToWord_toNat]
    simp only [imageOfList_getElem, imageOfInt, List.getD_cons_zero, List.getD_cons_succ]
    push_cast [toNat_ofInt_emod_256]
    omega
  rw [BitVec.toInt_eq_toNat_cond]
  omega

/-- Settles O49: the first four pseudo-instructions have the check and the transaction of their expansions; the bytes of
T pass LD5's check, and joined they are T. -/
theorem pseudoInstructionsExpand : Obligations.PseudoInstructionsExpand := by
  refine ⟨fun _ _ => rfl, fun _ => rfl, fun _ _ _ => rfl, fun _ _ _ => rfl, fun rd t lo hi => ?ldts⟩
  have hldts := assemble_of_wf ((wf_ldts_iff rd t).mpr ⟨lo, hi⟩)
  have hld5 := assemble_of_wf ((wf_ld5_iff rd (imageOfInt t)).mpr ⟨rfl, imageOfInt_bytes t⟩)
  refine ⟨hldts.trans hld5.symm, _, hldts, fun s => ?_⟩
  obtain ⟨s', hrun, hreg⟩ := runTransaction_ld5 rd 0 (imageOfList (imageOfInt t)) s
  exact ⟨s', hrun, hreg ▸ imageToWord_imageOfInt lo hi⟩

/-- Settles O50: the assembler's range checks, and an accepted LDI line loads V's pattern. -/
theorem assemblerAcceptsInRange : Obligations.AssemblerAcceptsInRange := by
  refine ⟨fun rd v => ?ldiRange, fun rd v u hu s => ?ldiLoads, fun rd bs => ?ld5Range⟩
  case ldiRange => rw [assemble_some_iff, wf_ldi_iff]
  case ldiLoads =>
    have hwf := (assemble_some_iff _).mp ⟨u, hu⟩
    cases (assemble_of_wf hwf).symm.trans hu
    obtain ⟨t, hrun, hreg⟩ := runTransaction_ldi rd (s64 v) (imageOfList []) s
    exact ⟨t, hrun, hreg ▸ s64_toInt_congruent v⟩
  case ld5Range =>
    rw [assemble_some_iff, wf_ld5_iff]
    simp only [Int.lt_iff_add_one_le, show (256 : Int) = 255 + 1 from rfl, Int.add_le_add_iff_right]

end Sys2Proof.Proofs
end

section
/-! Raw 64-bit arithmetic (40_arithmetic.md R81 to R88): the exact results of ADD, SUB and MUL and what a pattern keeps
of them, and the three cases of DIV. -/
namespace Sys2Proof.Proofs
open Sys2Proof Sys2Proof.Machine

/-! ## A register write, at its target and in ST -/

section
variable (rd : RegIdx) (v : Word) (s : State)

theorem commit_write_reg (ov : Bool) : ((Effect.write rd v ov).commit s).reg rd = v := by
  simp [Effect.commit]

theorem commit_write_st_ov : ((Effect.write rd v true).commit s).st = s.st ||| 1 := rfl

theorem commit_write_st_clear : ((Effect.write rd v false).commit s).st = s.st := rfl

end

/-! ## ADD, SUB and MUL -/

/-- `e` is the exact result of `i`, which is ADD, SUB or MUL (R82, R83, R84). -/
abbrev ExactResult (rd rs1 rs2 : RegIdx) (s : State) (i : Instr) (e : Int) : Prop :=
  (i = .add rd rs1 rs2 ∧ e = (s.reg rs1).toInt + (s.reg rs2).toInt) ∨
  (i = .sub rd rs1 rs2 ∧ e = (s.reg rs1).toInt - (s.reg rs2).toInt) ∨
  (i = .mul rd rs1 rs2 ∧ e = (s.reg rs1).toInt * (s.reg rs2).toInt)

/-- ADD, SUB and MUL commit the raw effect of their exact result (R81). -/
theorem exec_eq_commit_rawEffect {rd rs1 rs2 : RegIdx} {s : State} {i : Instr} {e : Int}
    (h : ExactResult rd rs1 rs2 s i e) :
    exec i s = .next ((rawEffect rd e).commit (recordReads [rs1, rs2] s)) := by
  obtain ⟨rfl, rfl⟩ | ⟨rfl, rfl⟩ | ⟨rfl, rfl⟩ := h <;> exact exec_eq_commit s _

/-- Settles O21: a raw result is written as `s64 e`, and OV is set exactly when `e` overflows. -/
theorem rawArithmeticOverflowLaw : Obligations.RawArithmeticOverflowLaw := by
  intro rd rs1 rs2 s i e h
  refine ⟨_, exec_eq_commit_rawEffect h, ?value, fun ho => ?overflow, fun hf => ?fits⟩
  case value => rw [rawEffect, commit_write_reg, s64_toInt]
  case overflow => rw [rawEffect, (overflows_iff e).mpr ho, commit_write_st_ov, recordReads_st]
  case fits =>
    have ho : overflows e = false := Bool.eq_false_iff.mpr fun ho => (overflows_iff_not_fits e).mp ho hf
    rw [rawEffect, ho, commit_write_st_clear, recordReads_st]

/-- WRAP leaves the reduction of its source in its destination, which may be the source (R101). -/
theorem exec_wrap_reg (rd rs1 : RegIdx) (s : State) :
    ∃ t, exec (.wrap rd rs1) s = .next t ∧ (t.reg rd).toInt = wrap40 (s.reg rs1).toInt := by
  refine ⟨_, exec_wrap rd rs1 s, ?_⟩
  rw [writeReg_reg, if_pos rfl, wrapValue, toInt_s64_wrap40]

/-- Settles O23: `s64` keeps the residue modulo 2^40, and WRAP reads nothing else; -2 / 2 is a quotient that does not
commute with the reduction. -/
theorem rawResultsCongruent : Obligations.RawResultsCongruent := by
  refine ⟨fun rd rs1 rs2 s i e h => ?raw, -2, 2, by decide⟩
  have hcong : wrap40 (((rawEffect rd e).commit (recordReads [rs1, rs2] s)).reg rd).toInt = wrap40 e := by
    rw [rawEffect, commit_write_reg, wrap40_s64]
  obtain ⟨u, hu, hwrap⟩ := exec_wrap_reg rd rd ((rawEffect rd e).commit (recordReads [rs1, rs2] s))
  exact ⟨_, u, exec_eq_commit_rawEffect h, hcong, hu, hwrap.trans hcong⟩

/-- The pattern of the product of two signed readings is the product of the patterns (R85). -/
theorem s64_toInt_mul_toInt (a b : Word) : s64 (a.toInt * b.toInt) = a * b := by
  rw [s64, BitVec.ofInt_mul, BitVec.ofInt_toInt, BitVec.ofInt_toInt]

/-- Settles O24: MUL writes the product of the patterns, whose unsigned reading is the unsigned product modulo 2^64. -/
theorem mulSameSignedOrUnsigned : Obligations.MulSameSignedOrUnsigned := by
  intro rd rs1 rs2 s
  refine ⟨_, exec_eq_commit_rawEffect (.inr (.inr ⟨rfl, rfl⟩)), ?_⟩
  rw [rawEffect, commit_write_reg, s64_toInt_mul_toInt, BitVec.toNat_mul]

/-! ## DIV -/

section
variable (rd : RegIdx) {a b : Int}

theorem divEffect_zero (hb : b = 0) : divEffect rd a b = .raise (.divideByZero rd) := if_pos hb

theorem divEffect_overflow (ho : a = -9223372036854775808 ∧ b = -1) :
    divEffect rd a b = .write rd (s64 (-9223372036854775808)) true := by
  obtain ⟨rfl, rfl⟩ := ho
  rfl

theorem divEffect_quotient (hb : b ≠ 0) (ho : ¬(a = -9223372036854775808 ∧ b = -1)) :
    divEffect rd a b = .write rd (s64 (a.tdiv b)) false :=
  (if_neg hb).trans (if_neg ho)

end

/-- DIV commits the effect its dividend and divisor have. -/
theorem exec_div_eq_commit {rd rs1 rs2 : RegIdx} {s : State} {e : Effect}
    (h : divEffect rd (s.reg rs1).toInt (s.reg rs2).toInt = e) :
    exec (.div rd rs1 rs2) s = .next (e.commit (recordReads [rs1, rs2] s)) :=
  h ▸ exec_eq_commit s (.div rd rs1 rs2)

/-- But for -2^63 by -1, the truncated quotient of two registers fits in a register: it is their `BitVec.sdiv` (R86). -/
theorem toInt_s64_tdiv {a b : Word} (h : ¬(a.toInt = -9223372036854775808 ∧ b.toInt = -1)) :
    (s64 (a.toInt.tdiv b.toInt)).toInt = a.toInt.tdiv b.toInt := by
  have hab : a ≠ BitVec.intMin 64 ∨ b ≠ -1#64 :=
    not_and_or.mp fun ⟨ha, hb⟩ => h ⟨by rw [ha]; rfl, by rw [hb]; rfl⟩
  rw [← BitVec.toInt_sdiv_of_ne_or_ne a b hab, s64, BitVec.ofInt_toInt]

/-- Settles O25: the overflow case, and the quotient, which fits and is no greater in size than the dividend. -/
theorem divTruncates : Obligations.DivTruncates := by
  intro rd rs1 rs2 s hb
  by_cases ho : (s.reg rs1).toInt = -9223372036854775808 ∧ (s.reg rs2).toInt = -1
  case pos =>
    refine ⟨_, exec_div_eq_commit (divEffect_overflow rd ho), writesRegister_commit .., fun _ => ⟨?_, rfl⟩,
      fun hn => absurd ho hn⟩
    rw [commit_write_reg, toInt_s64 (by decide) (by decide)]
  case neg =>
    refine ⟨_, exec_div_eq_commit (divEffect_quotient rd hb ho), writesRegister_commit .., fun h => absurd h ho,
      fun _ => ?_⟩
    rw [commit_write_reg, toInt_s64_tdiv ho]
    exact ⟨rfl, Int.natAbs_tdiv_le_natAbs _ _, rfl⟩

/-! ### The signs of a truncated quotient (R87) -/

theorem tdiv_eq_neg_neg_ediv {a : Int} (ha : a < 0) (b : Int) : a.tdiv b = -(-a / b) := by
  rw [← Int.tdiv_eq_ediv_of_nonneg (neg_pos.mpr ha).le, Int.neg_tdiv, Int.neg_neg]

theorem tdiv_eq_neg_ediv_neg {a : Int} (ha : 0 ≤ a) (b : Int) : a.tdiv b = -(a / -b) := by
  rw [Int.tdiv_eq_ediv_of_nonneg ha, Int.ediv_neg, Int.neg_neg]

theorem tdiv_eq_neg_ediv_neg_of_neg {a : Int} (ha : a < 0) (b : Int) : a.tdiv b = -a / -b := by
  rw [tdiv_eq_neg_neg_ediv ha, Int.ediv_neg]

/-- Settles O26: a zero divisor only raises its error. For every other divisor `divTruncates` gives the truncated
quotient, which each row writes with the absolute values, and a quotient of those is not negative. -/
theorem divSignTable : Obligations.DivSignTable := by
  intro rd rs1 rs2 s
  by_cases hz : (s.reg rs2).toInt = 0
  case pos =>
    refine ⟨_, exec_div_eq_commit (divEffect_zero rd hz), ?_, ?_, ?_, ?_, ?_, fun _ => ⟨rfl, rfl⟩⟩ <;> omega
  case neg =>
    obtain ⟨t, ht, -, hover, hrest⟩ := divTruncates rd rs1 rs2 s hz
    have hquot (ho : ¬((s.reg rs1).toInt = -9223372036854775808 ∧ (s.reg rs2).toInt = -1)) :
        (t.reg rd).toInt = (s.reg rs1).toInt.tdiv (s.reg rs2).toInt := (hrest ho).1
    refine ⟨t, ht, fun ⟨ha, hb⟩ => ?posPos, fun ⟨ha, hb⟩ => ?negPos, fun ⟨ha, hb⟩ => ?posNeg,
      fun ⟨ha, hb, ho⟩ => ?negNeg, hover, fun h => absurd h hz⟩
    case posPos =>
      rw [hquot (by omega), Int.tdiv_eq_ediv_of_nonneg ha]
      exact ⟨rfl, Int.ediv_nonneg ha hb.le⟩
    case negPos =>
      rw [hquot (by omega), tdiv_eq_neg_neg_ediv ha]
      exact ⟨rfl, neg_nonpos.mpr (Int.ediv_nonneg (neg_pos.mpr ha).le hb.le)⟩
    case posNeg =>
      rw [hquot (by omega), tdiv_eq_neg_ediv_neg ha]
      exact ⟨rfl, neg_nonpos.mpr (Int.ediv_nonneg ha (neg_pos.mpr hb).le)⟩
    case negNeg =>
      rw [hquot ho, tdiv_eq_neg_ediv_neg_of_neg ha]
      exact ⟨rfl, Int.ediv_nonneg (neg_pos.mpr ha).le (neg_pos.mpr hb).le⟩

end Sys2Proof.Proofs
end

section
/-! Modular reduction (41_modular.md R100 to R107): WRAP, ADDW and SUBW all write the residue modulo 2^40 of an exact
integer, and the residue of the exact sum or difference is that of the 64-bit one. -/
namespace Sys2Proof.Proofs
open Sys2Proof Sys2Proof.Machine

/-! ## The one effect of the three commands -/

/-- The effect of WRAP, ADDW or SUBW with exact integer `e` (R101, R102, R103). -/
def modEffect (rd : RegIdx) (e : Int) : Effect := .write rd (s64 (wrap40 e)) false

/-- `e` is the exact integer that `i` reduces, where `i` is ADDW or SUBW (R102, R103). -/
abbrev FusedResult (rd rs1 rs2 : RegIdx) (s : State) (i : Instr) (e : Int) : Prop :=
  (i = .addw rd rs1 rs2 ∧ e = (s.reg rs1).toInt + (s.reg rs2).toInt) ∨
  (i = .subw rd rs1 rs2 ∧ e = (s.reg rs1).toInt - (s.reg rs2).toInt)

/-- WRAP reduces its source, read as a signed integer (R101). -/
theorem exec_wrap_eq_commit (rd rs1 : RegIdx) (s : State) :
    exec (.wrap rd rs1) s = .next ((modEffect rd (s.reg rs1).toInt).commit (recordReads [rs1] s)) :=
  exec_eq_commit s _

/-- ADDW and SUBW reduce their exact result (R102, R103). -/
theorem exec_fused_eq_commit {rd rs1 rs2 : RegIdx} {s : State} {i : Instr} {e : Int}
    (h : FusedResult rd rs1 rs2 s i e) :
    exec i s = .next ((modEffect rd e).commit (recordReads [rs1, rs2] s)) := by
  obtain ⟨rfl, rfl⟩ | ⟨rfl, rfl⟩ := h <;> exact exec_eq_commit s _

section
variable (rd : RegIdx) (e : Int) (s : State)

theorem commit_modEffect_reg : ((modEffect rd e).commit s).reg rd = s64 (wrap40 e) := commit_write_reg ..

theorem commit_modEffect_st : ((modEffect rd e).commit s).st = s.st := rfl

theorem commit_modEffect_reg_toInt : (((modEffect rd e).commit s).reg rd).toInt = e % 1099511627776 := by
  rw [commit_modEffect_reg, toInt_s64_wrap40]
  rfl

/-- A reduced value is below 2^40 as a pattern too, not only as a signed integer (R104). -/
theorem commit_modEffect_reg_toNat_le : (((modEffect rd e).commit s).reg rd).toNat ≤ 1099511627775 := by
  obtain ⟨lo, hi⟩ := wrap40_bounds e
  rw [commit_modEffect_reg, s64, BitVec.toNat_ofInt]
  omega

end

/-- Settles O29: WRAP writes one register, with the residue of its source. -/
theorem wrapWritesRemainder : Obligations.WrapWritesRemainder := fun rd rs1 s =>
  ⟨_, exec_wrap_eq_commit rd rs1 s, commit_modEffect_reg_toInt .., commit_modEffect_st .., writesRegister_commit ..⟩

/-- Settles O30: ADDW and SUBW write one register, with the residue of the exact result. -/
theorem addwSubwWriteRemainder : Obligations.AddwSubwWriteRemainder := fun _ _ _ _ _ _ h =>
  ⟨_, exec_fused_eq_commit h, commit_modEffect_reg_toInt .., commit_modEffect_st .., writesRegister_commit ..⟩

/-- Settles O34: the difference of the two residues has the residue of `n`, which is `n` exactly in the stated range. -/
theorem intervalIsElapsedTime : Obligations.IntervalIsElapsedTime := by
  intro rd rs1 rs2 s c n hlater hearlier
  obtain ⟨t, ht, hval, -⟩ := addwSubwWriteRemainder rd rs1 rs2 s _ _ (.inr ⟨rfl, rfl⟩)
  have hn : (t.reg rd).toInt = n % 1099511627776 := by
    rw [hval, hlater, hearlier, ← Int.sub_emod, add_sub_cancel_left]
  refine ⟨t, ht, ?_⟩
  rw [hn]
  omega

/-! ## The 64-bit datapath (R104) -/

/-- The pattern of the sum of two signed readings is the sum of the patterns. -/
theorem s64_toInt_add_toInt (a b : Word) : s64 (a.toInt + b.toInt) = a + b := by
  rw [s64, BitVec.ofInt_add, BitVec.ofInt_toInt, BitVec.ofInt_toInt]

/-- The pattern of the difference of two signed readings is the difference of the patterns. -/
theorem s64_toInt_sub_toInt (a b : Word) : s64 (a.toInt - b.toInt) = a - b := by
  rw [s64, Int.sub_eq_add_neg, BitVec.ofInt_add, BitVec.ofInt_neg, BitVec.ofInt_toInt, BitVec.ofInt_toInt,
    BitVec.sub_eq_add_neg]

/-- ADDW may add modulo 2^64 first, because 2^40 divides 2^64. -/
theorem addwValue_eq_wrapValue_add (a b : Word) : addwValue a b = wrapValue (a + b) := by
  rw [addwValue, wrapValue, ← s64_toInt_add_toInt, wrap40_s64]

/-- SUBW may subtract modulo 2^64 first. -/
theorem subwValue_eq_wrapValue_sub (a b : Word) : subwValue a b = wrapValue (a - b) := by
  rw [subwValue, wrapValue, ← s64_toInt_sub_toInt, wrap40_s64]

/-- WRAP keeps the low 40 bits. -/
theorem wrapValue_eq_setWidth_extractLsb' (w : Word) : wrapValue w = (w.extractLsb' 0 40).setWidth 64 := by
  rw [wrapValue, wrap40_toInt_eq_wrap40_toNat, ← toNat_extractLsb'_zero_forty, s64, BitVec.ofInt_natCast,
    BitVec.ofNat_toNat]

/-- Settles O31: the register holds the residue of the exact result, which is that of the 64-bit one. -/
theorem fusedDatapathExact : Obligations.FusedDatapathExact := by
  intro rd rs1 rs2 s
  refine ⟨_, _, _, exec_fused_eq_commit (.inl ⟨rfl, rfl⟩), exec_fused_eq_commit (.inr ⟨rfl, rfl⟩),
    exec_wrap_eq_commit rd rs1 s, ?sum, ?difference, commit_modEffect_reg_toInt .., commit_modEffect_reg_toInt ..,
    commit_modEffect_reg_toNat_le .., commit_modEffect_reg_toNat_le .., commit_modEffect_reg_toNat_le ..,
    commit_modEffect_st .., commit_modEffect_st .., commit_modEffect_st ..⟩
  case sum =>
    rw [commit_modEffect_reg, ← addwValue, addwValue_eq_wrapValue_add, wrapValue_eq_setWidth_extractLsb']
  case difference =>
    rw [commit_modEffect_reg, ← subwValue, subwValue_eq_wrapValue_sub, wrapValue_eq_setWidth_extractLsb']

/-! ## The raw command followed by WRAP in place (R105) -/

/-- A read of a written register leaves the state as it is (R155). -/
theorem noteRead_of_isWritten {s : State} {i : RegIdx} (h : s.isWritten i = true) : s.noteRead i = s := by
  rw [State.noteRead, if_pos h]

/-- Of two writes to one register the second stays. -/
theorem writeReg_writeReg (i : RegIdx) (v w : Word) (s : State) :
    (s.writeReg i v).writeReg i w = s.writeReg i w := by
  simp [State.writeReg]

/-- WRAP in place after a write reduces the written value; its read finds a marked register and records nothing. -/
theorem exec_wrap_commit_write (rd : RegIdx) (v : Word) (ov : Bool) (s : State) :
    exec (.wrap rd rd) ((Effect.write rd v ov).commit s) =
      .next ((Effect.write rd (wrapValue v) ov).commit s) := by
  rw [exec_wrap, commit_write_reg, noteRead_of_isWritten (commit_marks_target s _ rfl)]
  exact congrArg Host.Outcome.next (writeReg_writeReg ..)

/-- WRAP in place after a raw result reduces the exact result: what 64 bits lose of it is a multiple of 2^40 (R88). -/
theorem exec_wrap_commit_rawEffect (rd : RegIdx) (e : Int) (s : State) :
    exec (.wrap rd rd) ((rawEffect rd e).commit s) =
      .next ((Effect.write rd (s64 (wrap40 e)) (overflows e)).commit s) := by
  rw [rawEffect, exec_wrap_commit_write, wrapValue, wrap40_s64]

/-- Settles O32: with the exact result `e`, both ways write the residue of `e`; the raw command has set OV when `e`
overflows. -/
theorem fusedEqualsSequence : Obligations.FusedEqualsSequence := by
  intro rd rs1 rs2 s fused raw h
  obtain ⟨e, hfused, hraw⟩ : ∃ e, FusedResult rd rs1 rs2 s fused e ∧ ExactResult rd rs1 rs2 s raw e := by
    obtain ⟨rfl, rfl⟩ | ⟨rfl, rfl⟩ := h
    · exact ⟨_, .inl ⟨rfl, rfl⟩, .inl ⟨rfl, rfl⟩⟩
    · exact ⟨_, .inr ⟨rfl, rfl⟩, .inr (.inl ⟨rfl, rfl⟩)⟩
  refine ⟨_, _, _, exec_fused_eq_commit hfused, exec_eq_commit_rawEffect hraw, exec_wrap_commit_rawEffect .., ?value,
    rfl, ?status⟩
  case value => rw [commit_write_reg, commit_modEffect_reg]
  case status =>
    cases overflows e
    · exact .inl (commit_write_st_clear ..)
    · exact .inr (commit_write_st_ov ..)

/-! ## The laws of the reduced values (R106)

Read as signed integers the values are residues, so each law is one of the integers modulo 2^40. -/

section
variable (a b c : Word)

theorem toInt_wrapValue : (wrapValue a).toInt = a.toInt % 1099511627776 := toInt_s64_wrap40 _

theorem toInt_addwValue : (addwValue a b).toInt = (a.toInt + b.toInt) % 1099511627776 := toInt_s64_wrap40 _

theorem toInt_subwValue : (subwValue a b).toInt = (a.toInt - b.toInt) % 1099511627776 := toInt_s64_wrap40 _

/-- Range. -/
theorem wrapValue_range : 0 ≤ (wrapValue a).toInt ∧ (wrapValue a).toInt ≤ 1099511627775 := by
  rw [toInt_wrapValue]
  omega

/-- Identity. -/
theorem wrapValue_eq_self {a : Word} (lo : 0 ≤ a.toInt) (hi : a.toInt ≤ 1099511627775) : wrapValue a = a := by
  rw [← BitVec.toInt_inj, toInt_wrapValue, Int.emod_eq_of_lt lo (by omega)]

/-- Idempotence. -/
theorem wrapValue_wrapValue : wrapValue (wrapValue a) = wrapValue a := by
  rw [← BitVec.toInt_inj, toInt_wrapValue, toInt_wrapValue, Int.emod_emod]

/-- Period. -/
theorem wrapValue_add_modulus {t : Word} (h : t.toNat < 1099511627776) : wrapValue (t + 1099511627776) = t := by
  have ht : t.toInt = t.toNat := BitVec.toInt_eq_toNat_of_lt (by omega)
  calc wrapValue (t + 1099511627776)
    _ = addwValue t 1099511627776 := (addwValue_eq_wrapValue_add ..).symm
    _ = wrapValue t := congrArg s64 (wrap40_add_mul t.toInt 1)
    _ = t := wrapValue_eq_self (by omega) (by omega)

/-- Commutativity. -/
theorem addwValue_comm : addwValue a b = addwValue b a := by
  rw [addwValue, addwValue, add_comm]

/-- Associativity. -/
theorem addwValue_assoc : addwValue (addwValue a b) c = addwValue a (addwValue b c) := by
  rw [← BitVec.toInt_inj, toInt_addwValue, toInt_addwValue, toInt_addwValue, toInt_addwValue, Int.emod_add_emod,
    Int.add_emod_emod, add_assoc]

/-- Inverse: subtracting what was added. -/
theorem subwValue_addwValue : subwValue (addwValue a b) b = wrapValue a := by
  rw [← BitVec.toInt_inj, toInt_subwValue, toInt_addwValue, toInt_wrapValue, Int.emod_sub_emod, add_sub_cancel_right]

/-- Inverse: adding what was subtracted. -/
theorem addwValue_subwValue : addwValue (subwValue a b) b = wrapValue a := by
  rw [← BitVec.toInt_inj, toInt_addwValue, toInt_subwValue, toInt_wrapValue, Int.emod_add_emod, sub_add_cancel]

/-- Antisymmetry, where the two values are congruent. -/
theorem subwValue_eq_zero_iff : subwValue a b = 0 ↔ a.toInt % 1099511627776 = b.toInt % 1099511627776 := by
  rw [← BitVec.toInt_inj, toInt_subwValue, Int.emod_eq_emod_iff_emod_sub_eq_zero]
  rfl

/-- Antisymmetry otherwise: the two differences are residues other than 0 of opposite integers. -/
theorem subwValue_add_subwValue {a b : Word} (h : subwValue a b ≠ 0) :
    (subwValue a b).toInt + (subwValue b a).toInt = 1099511627776 := by
  rw [ne_eq, subwValue_eq_zero_iff] at h
  rw [toInt_subwValue, toInt_subwValue]
  omega

end

/-- Settles O33: what the three commands write, and the laws above. -/
theorem modularLaws : Obligations.ModularLaws :=
  ⟨fun rd rs1 rs2 s => ⟨_, _, _,
      exec_eq_commit s (.addw rd rs1 rs2), commit_write_reg ..,
      exec_eq_commit s (.subw rd rs1 rs2), commit_write_reg ..,
      exec_eq_commit s (.wrap rd rs1), commit_write_reg ..⟩,
    wrapValue_range, fun _ => wrapValue_eq_self, wrapValue_wrapValue, fun _ => wrapValue_add_modulus,
    addwValue_comm, addwValue_assoc,
    fun a b => ⟨subwValue_addwValue a b, addwValue_subwValue a b⟩,
    fun a b => ⟨subwValue_eq_zero_iff a b, subwValue_add_subwValue⟩⟩

end Sys2Proof.Proofs
end

section
/-! Transfers (42_transfer.md R120 to R127): the five bytes of an image against the register they are joined to, and
the commands that move a register and an image or a pattern through the port. -/
namespace Sys2Proof.Proofs
open Sys2Proof Sys2Proof.Machine

/-! ## Images and registers (R42, R43) -/

/-- Byte k of a register's image is its k-th base-256 digit (R42). -/
theorem wordToImage_getElem_toNat (v : Word) (k : Nat) (hk : k < 5) :
    (wordToImage v)[k].toNat = v.toNat / 256 ^ k % 256 := by
  rw [wordToImage_getElem v k hk, BitVec.extractLsb'_toNat, Nat.shiftRight_eq_div_pow, Nat.pow_mul]

/-- Five bytes make less than 2^40, whose top bit is far above them: the joined value is never negative (R43). -/
theorem imageToWord_toInt (b : Image) :
    (imageToWord b).toInt = ((b[0].toNat + 256 * b[1].toNat + 65536 * b[2].toNat +
      16777216 * b[3].toNat + 4294967296 * b[4].toNat : Nat) : Int) := by
  have hlt : 2 * (imageToWord b).toNat < 2 ^ 64 := by
    rw [imageToWord_toNat]
    omega
  rw [BitVec.toInt_eq_toNat_of_lt hlt, imageToWord_toNat]

theorem imageToWord_range (b : Image) : 0 ≤ (imageToWord b).toInt ∧ (imageToWord b).toInt ≤ 1099511627775 := by
  rw [imageToWord_toInt]
  omega

/-- Splitting a joined image gives its bytes back: a byte is below the weight of the next one (R127). -/
theorem wordToImage_imageToWord (b : Image) : wordToImage (imageToWord b) = b := by
  apply Vector.ext
  intro k hk
  rw [← BitVec.toNat_inj, wordToImage_getElem_toNat _ k hk, imageToWord_toNat]
  interval_cases k <;> omega

/-- Joining a register's image gives the register reduced: the five bytes are its low 40 bits (R127). -/
theorem imageToWord_wordToImage (v : Word) : imageToWord (wordToImage v) = wrapValue v := by
  rw [wrapValue_eq_setWidth_extractLsb', ← BitVec.toNat_inj, imageToWord_toNat, BitVec.toNat_setWidth,
    BitVec.extractLsb'_toNat]
  simp only [wordToImage_getElem_toNat]
  omega

/-! ## Loads -/

/-- Settles O16: LDI writes DIN's pattern, whose reading as a signed integer is s64(DIN). -/
theorem ldiLoadsDin : Obligations.LdiLoadsDin := by
  refine ⟨fun _ => rfl, fun rd s => ⟨_, exec_eq_commit s (.ldi rd), ?value, rfl, writesRegister_commit ..,
    fun b => exec_eq_commit { s with bin := b } (.ldi rd)⟩⟩
  case value =>
    rw [effect, commit_write_reg, BitVec.toInt_eq_toNat_cond]
    split <;> split <;> omega

/-- Settles O17: LD5 writes the joined image of BIN. -/
theorem ld5LoadsImage : Obligations.Ld5LoadsImage := by
  refine ⟨fun _ => rfl, fun rd s => ?_⟩
  have hreg : ((effect (.ld5 rd) s).commit (recordReads [] s)).reg rd = imageToWord s.bin := commit_write_reg ..
  obtain ⟨lo, hi⟩ := imageToWord_range s.bin
  exact ⟨_, exec_eq_commit s (.ld5 rd), hreg ▸ imageToWord_toInt s.bin, hreg ▸ lo, hreg ▸ hi, rfl,
    writesRegister_commit .., fun d => exec_eq_commit { s with din := d } (.ld5 rd)⟩

/-! ## Stores -/

/-- The frame of an effect that writes no register, after the reads `rs`. -/
theorem keepsRegisters_commit {e : Effect} (h : e.target = none) (rs : List RegIdx) (s : State) :
    KeepsRegisters rs s (e.commit (recordReads rs s)) where
  regs _ := commit_keeps_register _ _ (by simp [h])
  port := by cases e <;> exact ⟨rfl, rfl, rfl⟩
  recorded := commit_unwrittenRead ..

/-- Settles O18: RDX drives DOUT with its source's pattern. -/
theorem rdxDrivesDout : Obligations.RdxDrivesDout := fun rs1 s =>
  ⟨_, exec_eq_commit s (.rdx rs1), rfl, rfl, rfl, rfl, rfl, keepsRegisters_commit rfl ..⟩

/-- Settles O19: ST5 drives BOUT with its source's image. -/
theorem st5DrivesBout : Obligations.St5DrivesBout := fun rs1 s =>
  ⟨_, exec_eq_commit s (.st5 rs1), wordToImage_getElem_toNat (s.reg rs1), rfl, rfl, rfl, rfl,
    keepsRegisters_commit rfl ..⟩

/-! ## Round trips (R127) -/

/-- What ST5 sends is received by LD5 as the register reduced. -/
theorem exec_st5_then_ld5 (rs rd : RegIdx) (s : State) :
    ∃ t u, exec (.st5 rs) s = .next t ∧ exec (.ld5 rd) { t with bin := t.bout } = .next u ∧
      u.reg rd = wrapValue (s.reg rs) := by
  refine ⟨_, _, exec_st5 rs s, exec_ld5 rd _, ?_⟩
  rw [writeReg_reg, if_pos rfl, driveBout_bout, imageToWord_wordToImage]

/-- Settles O20: the second command of each pair undoes the first, up to the reduction, and a SUBW result is reduced. -/
theorem transferRoundTrips : Obligations.TransferRoundTrips := by
  refine ⟨fun rd s => ⟨_, _, exec_ld5 rd s, exec_st5 rd _, ?ld5St5⟩, fun rs rd s => ?st5Ld5,
    fun rd s => ⟨_, _, exec_ldi rd s, exec_rdx rd _, ?ldiRdx⟩, fun ri rs1 rs2 rd s => ?interval⟩
  case ld5St5 => rw [driveBout_bout, writeReg_reg, if_pos rfl, wordToImage_imageToWord]
  case st5Ld5 =>
    obtain ⟨t, u, ht, hu, hreg⟩ := exec_st5_then_ld5 rs rd s
    exact ⟨t, u, ht, hu, by rw [hreg, toInt_wrapValue]⟩
  case ldiRdx => rw [driveDout_dout, writeReg_reg, if_pos rfl]
  case interval =>
    obtain ⟨u, v, hu, hv, hreg⟩ :=
      exec_st5_then_ld5 ri rd ((s.noteReads rs1 rs2).writeReg ri (subwValue (s.reg rs1) (s.reg rs2)))
    refine ⟨_, u, v, exec_subw ri rs1 rs2 s, hu, hv, ?_⟩
    rw [hreg, writeReg_reg, if_pos rfl, subwValue_eq_wrapValue_sub, wrapValue_wrapValue]

end Sys2Proof.Proofs
end

section
/-! Control (43_control.md R140 to R142): NOP, RDST and CLRST have one word each. NOP changes nothing, RDST only
DOUT and its mark, CLRST only ST. -/
namespace Sys2Proof.Proofs
open Sys2Proof Sys2Proof.Machine

/-! ## Commands without register fields (R63, class N) -/

/-- A class N command's opcode has one legal word: a word that passes the checks has zeros below the opcode. -/
theorem decode_error_of_ne_encode_classN {w : CmdWord} {op : Nat} {m : Mnemonic} (hn : m.operandClass = .n)
    (hop : w.toNat / 4096 = op) (hopm : mnemonicOf (BitVec.ofNat 4 op) = some m)
    (hne : w ≠ encode (command m 0 0 0)) : ∃ why, decode w = .error why := by
  have hm : mnemonicOf (opField w) = some m := by
    rw [← hopm, ← hop, ← opField_toNat, BitVec.ofNat_toNat, BitVec.setWidth_eq]
  refine (decode_error_iff w).mpr fun m' hm' hw => hne ?_
  cases hm.symm.trans hm'
  have hcommand : commandOf m w = command m 0 0 0 := by
    rw [commandOf, hw.rd (by rw [hn]; rfl), hw.rs1 (by rw [hn]; rfl), hw.rs2 (by rw [hn]; rfl)]
    rfl
  rw [← hcommand, encode_commandOf hm hw]

/-! ## NOP, RDST and CLRST -/

/-- Settles O13: NOP answers its own state, and class N gives its opcode one word. -/
theorem nopHasNoEffect : Obligations.NopHasNoEffect :=
  ⟨exec_nop, rfl, fun _ hop hne => decode_error_of_ne_encode_classN (m := .nop) rfl hop rfl hne⟩

/-- An illegal word sets IL, whatever ST was (R153). -/
theorem runWord_sets_il {w : CmdWord} {why : Illegal} {s t : State} (hw : decode w = .error why)
    (h : runWord w s = .next t) : t.st.getLsbD 2 = true := by
  cases (runWord_of_error hw s).symm.trans h
  exact (getLsbD_or_mask s.st .il 2).trans (Bool.or_true _)

/-- Settles O14: RDST's one effect is to drive DOUT with ST, of which legality bounds the bits and an illegal word has
set bit 2. -/
theorem rdstReadsStatus : Obligations.RdstReadsStatus := by
  refine ⟨rfl, fun _ hop hne => decode_error_of_ne_encode_classN (m := .rdst) rfl hop rfl hne,
    fun s => ⟨_, exec_eq_commit s .rdst, rfl, rfl, fun hs _ => getLsbD_eq_false_of_legal hs, rfl, rfl, rfl,
      keepsRegisters_commit rfl ..⟩,
    ⟨_, exec_rdst State.reset, rfl⟩, fun w s t u why hw ht hu => ?afterIllegal⟩
  case afterIllegal =>
    cases (exec_rdst t).symm.trans hu
    exact runWord_sets_il hw ht

/-- From a cleared ST an illegal word leaves IL alone set. -/
theorem raise_illegalCommand_clearSt (w : CmdWord) (s : State) :
    s.clearSt.raise (.illegalCommand w) = { s with st := 4 } :=
  congrArg (fun v => { s with st := v }) (BitVec.zero_or (x := StBit.mask .il))

/-- Settles O15: CLRST clears ST, and an illegal word run from there sets IL alone. -/
theorem clrstClearsStatus : Obligations.ClrstClearsStatus :=
  ⟨rfl, exec_clrst, fun s w _ hw =>
    (runWord_of_error hw s.clearSt).trans (congrArg _ (raise_illegalCommand_clearSt w s))⟩

end Sys2Proof.Proofs
end

section
/-! Errors (60_exceptions.md R150 to R156): an illegal word and a DIV by zero set one bit of ST and write nothing else,
no word sets two bits, and nothing clears the record of an unwritten read. -/
namespace Sys2Proof.Proofs
open Sys2Proof Sys2Proof.Machine

/-! ## The status register -/

/-- Settles O38: a command clears ST, sets OV, sets DZ or leaves ST, and an illegal word sets IL. -/
theorem atMostOneStatusBitSet : Obligations.AtMostOneStatusBitSet := by
  intro s t u h
  obtain ⟨i, hi, he⟩ | ⟨why, -, rfl⟩ := runTransaction_cases h
  · obtain ⟨rfl, hclear⟩ | ⟨-, -, -, hov⟩ | ⟨-, -, -, hdz⟩ | ⟨-, -, -, hkeep⟩ := exec_st_cases he
    · exact .inr (.inr (.inr (.inr ⟨hi, hclear⟩)))
    · exact .inr (.inl hov)
    · exact .inr (.inr (.inl hdz))
    · exact .inl hkeep
  · exact .inr (.inr (.inr (.inl rfl)))

/-! ## The record of an unwritten read (log 2) -/

/-- An issued word keeps a record: its command only fills an empty one, and an illegal word reads nothing. -/
theorem runTransaction_keeps_record {u : Transaction} {s t : State} {r : RegIdx}
    (h : runTransaction u s = .next t) (hr : s.unwrittenRead = some r) : t.unwrittenRead = some r := by
  obtain ⟨i, -, he⟩ | ⟨why, -, rfl⟩ := runTransaction_cases h
  · rw [exec_record he, sample_unwrittenRead, hr, Option.some_or]
  · exact hr

/-- Settles O47: a step waits, issues one word, or resets, which keeps the record (log 9). -/
theorem unwrittenReadNeverCleared : Obligations.UnwrittenReadNeverCleared := by
  intro s t r hr h
  obtain ⟨-, rfl⟩ | ⟨u, rest, -, hu⟩ | ⟨rest, -, rfl⟩ := step_cases h
  · exact hr
  · exact runTransaction_keeps_record (s := s.withPending rest) hu hr
  · exact hr

/-! ## What the two errors leave -/

/-- Settles O8: with the event taken and the port sampled, an illegal word only raises IL. -/
theorem illegalWordSetsOnlyIl : Obligations.IllegalWordSetsOnlyIl := by
  intro s u rest why hp hw
  rw [step_of_issue hp, runTransaction_of_error hw]
  rfl

/-- Settles O27: with a zero divisor, raising DZ is DIV's whole effect. -/
theorem divByZeroSetsOnlyDz : Obligations.DivByZeroSetsOnlyDz := by
  intro rd rs1 rs2 s hz
  have hb : (s.reg rs2).toInt = 0 := BitVec.toInt_inj.mpr hz
  exact ⟨_, exec_div_eq_commit (divEffect_zero rd hb), rfl, rfl, rfl, rfl, rfl, keepsRegisters_commit rfl ..⟩

end Sys2Proof.Proofs
end
